-- ==== Sys2Proof/Word.lean ====
section
/-! DEFINITION. The word and byte types: rule R5 (`GPRLEN = 32`), rule R60 (32-bit instruction words). -/

namespace Sys2Proof

/-- A 32-bit word: a general register, HI, LO, the pc, an address, an instruction (R5, R26, R60). -/
abbrev Word := BitVec 32

/-- A byte of the program text held as bytes (R43). -/
abbrev Byte := BitVec 8

end Sys2Proof
end

