-- ==== Sys2Proof/Syntax.lean ====
section
/-! DEFINITION. The instructions: one constructor per row of spec/opcode_table.json, operands in the order of the
page's Format line, destination first (R3, R79). -/

namespace Sys2Proof

/-- A register-number field `rs`, `rt` or `rd` (R20): 5 bits. -/
abbrev Reg := BitVec 5

/-- The 16-bit immediate field (R62). -/
abbrev Imm16 := BitVec 16

/-- The shift-amount field `sa` (R64, R69): 5 bits. -/
abbrev Shamt := BitVec 5

/-- The `code` field of SYSCALL (R66): 20 bits. -/
abbrev SysCode := BitVec 20

/-- The 26 instructions and the two assembly idioms of R3. -/
inductive Instr where
  | add (rd rs rt : Reg)
  | addi (rt rs : Reg) (imm : Imm16)
  | addiu (rt rs : Reg) (imm : Imm16)
  | addu (rd rs rt : Reg)
  | and (rd rs rt : Reg)
  | andi (rt rs : Reg) (imm : Imm16)
  | div (rs rt : Reg)
  | divu (rs rt : Reg)
  | mul (rd rs rt : Reg)
  | mult (rs rt : Reg)
  | multu (rs rt : Reg)
  | nor (rd rs rt : Reg)
  | or (rd rs rt : Reg)
  | ori (rt rs : Reg) (imm : Imm16)
  | sll (rd rt : Reg) (sa : Shamt)
  | slt (rd rs rt : Reg)
  | slti (rt rs : Reg) (imm : Imm16)
  | sltiu (rt rs : Reg) (imm : Imm16)
  | sltu (rd rs rt : Reg)
  | sra (rd rt : Reg) (sa : Shamt)
  | srl (rd rt : Reg) (sa : Shamt)
  | sub (rd rs rt : Reg)
  | subu (rd rs rt : Reg)
  | syscall (code : SysCode)
  | xor (rd rs rt : Reg)
  | xori (rt rs : Reg) (imm : Imm16)
  /-- The idiom `SLL r0, r0, 0` (R160): a spelling, never the decoder's result (R73). -/
  | nop
  /-- The idiom `SLL r0, r0, 1` (R161): a spelling, never the decoder's result (R73). -/
  | ssnop
  deriving DecidableEq, Repr

end Sys2Proof
end

