-- ==== Sys2Proof/WellFormed.lean ====
section
/-! DEFINITION. Which terms of `Instr` are instructions of the hardware. Every field has the width its format gives it
(R61 to R66), so the one check left is that the term is an instruction and not an assembly idiom (R73, R80). -/

namespace Sys2Proof

/-- The term is one of the 26 instructions a decoder answers (R73): NOP and SSNOP are assembly idioms, "not searched by
the decoder". -/
def Instr.wellFormed (i : Instr) : Bool :=
  match i with
  | .nop => false
  | .ssnop => false
  | .add _ _ _ | .addi _ _ _ | .addiu _ _ _ | .addu _ _ _ | .and _ _ _ | .andi _ _ _ | .div _ _ | .divu _ _
  | .mul _ _ _ | .mult _ _ | .multu _ _ | .nor _ _ _ | .or _ _ _ | .ori _ _ _ | .sll _ _ _ | .slt _ _ _
  | .slti _ _ _ | .sltiu _ _ _ | .sltu _ _ _ | .sra _ _ _ | .srl _ _ _ | .sub _ _ _ | .subu _ _ _ | .syscall _
  | .xor _ _ _ | .xori _ _ _ => true

end Sys2Proof
end

