-- ==== Sys2Proof/Decode.lean ====
section
/-! DEFINITION. Instruction words: the fields of the formats (R61 to R66), the 26 rows of the opcode table with mask and
match (R73, R82, R83), the decoder that searches them, the encoder (R84), and the byte order of a word (R43). -/

namespace Sys2Proof

/-! ### Fields of an instruction word -/

/-- `rs = instr[25:21]` (R61, R62, R65). -/
def Word.rs (w : Word) : Reg := w.extractLsb' 21 5

/-- `rt = instr[20:16]` (R61, R62, R64, R65). -/
def Word.rt (w : Word) : Reg := w.extractLsb' 16 5

/-- `rd = instr[15:11]` (R61, R64). -/
def Word.rd (w : Word) : Reg := w.extractLsb' 11 5

/-- `sa = instr[10:6]` (R64). -/
def Word.sa (w : Word) : Shamt := w.extractLsb' 6 5

/-- `imm16 = instr[15:0]` (R62). -/
def Word.imm16 (w : Word) : Imm16 := w.extractLsb' 0 16

/-- `code = instr[25:6]` (R66). The position is general knowledge: UNVERIFIED by the source (notes/assumptions/15.md). -/
def Word.sysCode (w : Word) : SysCode := w.extractLsb' 6 20

/-! ### The opcode table -/

/-- A row of the opcode table with `kind = "instruction"`: a word `w` satisfies it when `w & mask = match` (R73). -/
structure OpcodeRow where
  mnemonic : String
  mask : Word
  pattern : Word
  /-- The instruction with its fields taken where the row's format has them. -/
  build : Word → Instr

/-- Format R3 with major opcode SPECIAL (R61). -/
def rowR3 (mnemonic : String) (pattern : Word) (mk : Reg → Reg → Reg → Instr) : OpcodeRow :=
  { mnemonic, mask := 0xFC0007FF#32, pattern, build := fun w => mk w.rd w.rs w.rt }

/-- Format I (R62). -/
def rowI (mnemonic : String) (pattern : Word) (mk : Reg → Reg → Imm16 → Instr) : OpcodeRow :=
  { mnemonic, mask := 0xFC000000#32, pattern, build := fun w => mk w.rt w.rs w.imm16 }

/-- Format SH (R64): bits 25..21 must be zero (R74, R76). -/
def rowSH (mnemonic : String) (pattern : Word) (mk : Reg → Reg → Shamt → Instr) : OpcodeRow :=
  { mnemonic, mask := 0xFFE0003F#32, pattern, build := fun w => mk w.rd w.rt w.sa }

/-- Format MD (R65): bits 15..6 must be zero. UNVERIFIED by the source (notes/assumptions/15.md). -/
def rowMD (mnemonic : String) (pattern : Word) (mk : Reg → Reg → Instr) : OpcodeRow :=
  { mnemonic, mask := 0xFC00FFFF#32, pattern, build := fun w => mk w.rs w.rt }

/-- The sixteen rows whose figure the source kept (R83), less the idioms; ADD's function as C1 repairs it. -/
def printedRows : List OpcodeRow :=
  [ rowSH "SLL" 0x00000000#32 .sll, rowSH "SRL" 0x00000002#32 .srl, rowSH "SRA" 0x00000003#32 .sra,
    rowR3 "ADD" 0x00000020#32 .add, rowR3 "ADDU" 0x00000021#32 .addu, rowR3 "SUB" 0x00000022#32 .sub,
    rowR3 "SUBU" 0x00000023#32 .subu, rowR3 "AND" 0x00000024#32 .and, rowR3 "OR" 0x00000025#32 .or,
    rowR3 "XOR" 0x00000026#32 .xor, rowR3 "NOR" 0x00000027#32 .nor, rowR3 "SLT" 0x0000002A#32 .slt,
    rowR3 "SLTU" 0x0000002B#32 .sltu, rowR3 "MUL" 0x70000002#32 .mul, rowI "ORI" 0x34000000#32 .ori ]

/-- The eleven rows whose figure is lost (R82). The values are general knowledge: UNVERIFIED by the source
(notes/assumptions/15.md). -/
def suppliedRows : List OpcodeRow :=
  [ rowI "ADDI" 0x20000000#32 .addi, rowI "ADDIU" 0x24000000#32 .addiu, rowI "SLTI" 0x28000000#32 .slti,
    rowI "SLTIU" 0x2C000000#32 .sltiu, rowI "ANDI" 0x30000000#32 .andi, rowI "XORI" 0x38000000#32 .xori,
    rowMD "MULT" 0x00000018#32 .mult, rowMD "MULTU" 0x00000019#32 .multu, rowMD "DIV" 0x0000001A#32 .div,
    rowMD "DIVU" 0x0000001B#32 .divu,
    { mnemonic := "SYSCALL", mask := 0xFC00003F#32, pattern := 0x0000000C#32, build := fun w => .syscall w.sysCode } ]

/-- The 26 instruction rows the decoder searches (R73). -/
def opcodeRows : List OpcodeRow := printedRows ++ suppliedRows

/-! ### Decoding -/

/-- Why bits are no instruction. -/
inductive DecodeError where
  /-- The word satisfies no row (R73, R75): an opcode or function outside R70 to R72, or a must-be-zero field that is
  not zero (R74), SRL with bit 21 set among them (R76). -/
  | undecodable
  /-- Fewer than four bytes are given: no instruction is shorter (R60). -/
  | truncated
  deriving DecidableEq, Repr

/-- R73: the row the word satisfies gives the instruction; if no row does, the word is Undecodable. -/
def decode (w : Word) : Except DecodeError Instr :=
  match opcodeRows.find? (fun r => w &&& r.mask == r.pattern) with
  | some r => .ok (r.build w)
  | none => .error .undecodable

/-! ### The bytes of a word -/

/-- The word whose bytes, from the lowest address up, are `b0 b1 b2 b3`, in the byte order of R43. -/
def wordOfBytes (bigEndian : Bool) (b0 b1 b2 b3 : Byte) : Word :=
  if bigEndian then (b0 ++ b1 ++ b2 ++ b3).cast rfl else (b3 ++ b2 ++ b1 ++ b0).cast rfl

/-- Byte `k` of a word, from the lowest address up, in the byte order of R43. -/
def byteOfWord (bigEndian : Bool) (w : Word) (k : Nat) : Byte :=
  w.extractLsb' (if bigEndian then 24 - 8 * k else 8 * k) 8

/-- The four bytes of a word, from the lowest address up. -/
def bytesOfWord (bigEndian : Bool) (w : Word) : List Byte :=
  [byteOfWord bigEndian w 0, byteOfWord bigEndian w 1, byteOfWord bigEndian w 2, byteOfWord bigEndian w 3]

/-- Decode the instruction at the head of a list of bytes, and give the bytes after it. -/
def decodeBytes (bigEndian : Bool) (bytes : List Byte) : Except DecodeError (Instr × List Byte) :=
  match bytes with
  | b0 :: b1 :: b2 :: b3 :: rest =>
    match decode (wordOfBytes bigEndian b0 b1 b2 b3) with
    | .ok i => .ok (i, rest)
    | .error e => .error e
  | _ => .error .truncated

/-- The instruction word whose low `nbits` bits are those of `w` and whose other bits are zero. -/
def tableWord (nbits w : Nat) : Word := BitVec.ofNat 32 (w % 2 ^ nbits)

/-- What the decoder reads from an instruction whose bits, numbered as spec/opcode_table.json numbers them, are `w`. -/
def decodeTableWord (nbits w : Nat) : Option Instr :=
  match decodeBytes false (bytesOfWord false (tableWord nbits w)) with
  | .ok (i, _) => some i
  | .error _ => none

/-! ### Encoding -/

/-- R84 for the formats R3, R3-SPECIAL2, SH and MD: opcode, rs, rt, rd, sa, function, from bit 31 down. -/
def encodeR (opcode : BitVec 6) (rs rt rd : Reg) (sa : Shamt) (funct : BitVec 6) : Word :=
  (opcode ++ rs ++ rt ++ rd ++ sa ++ funct).cast rfl

/-- R84 for format I: opcode, rs, rt, immediate, from bit 31 down. -/
def encodeI (opcode : BitVec 6) (rs rt : Reg) (imm : Imm16) : Word := (opcode ++ rs ++ rt ++ imm).cast rfl

/-- R84 for SYSCALL: opcode SPECIAL, code, function, from bit 31 down. -/
def encodeSys (code : SysCode) : Word := (0b000000#6 ++ code ++ 0b001100#6).cast rfl

/-- The word of an instruction, from the opcode and function tables R70, R71, R72 and the formats R61 to R66; an
idiom has the word of R80. -/
def encode (i : Instr) : Word :=
  match i with
  | .add rd rs rt => encodeR 0b000000#6 rs rt rd 0#5 0b100000#6
  | .addi rt rs imm => encodeI 0b001000#6 rs rt imm
  | .addiu rt rs imm => encodeI 0b001001#6 rs rt imm
  | .addu rd rs rt => encodeR 0b000000#6 rs rt rd 0#5 0b100001#6
  | .and rd rs rt => encodeR 0b000000#6 rs rt rd 0#5 0b100100#6
  | .andi rt rs imm => encodeI 0b001100#6 rs rt imm
  | .div rs rt => encodeR 0b000000#6 rs rt 0#5 0#5 0b011010#6
  | .divu rs rt => encodeR 0b000000#6 rs rt 0#5 0#5 0b011011#6
  | .mul rd rs rt => encodeR 0b011100#6 rs rt rd 0#5 0b000010#6
  | .mult rs rt => encodeR 0b000000#6 rs rt 0#5 0#5 0b011000#6
  | .multu rs rt => encodeR 0b000000#6 rs rt 0#5 0#5 0b011001#6
  | .nor rd rs rt => encodeR 0b000000#6 rs rt rd 0#5 0b100111#6
  | .or rd rs rt => encodeR 0b000000#6 rs rt rd 0#5 0b100101#6
  | .ori rt rs imm => encodeI 0b001101#6 rs rt imm
  | .sll rd rt sa => encodeR 0b000000#6 0#5 rt rd sa 0b000000#6
  | .slt rd rs rt => encodeR 0b000000#6 rs rt rd 0#5 0b101010#6
  | .slti rt rs imm => encodeI 0b001010#6 rs rt imm
  | .sltiu rt rs imm => encodeI 0b001011#6 rs rt imm
  | .sltu rd rs rt => encodeR 0b000000#6 rs rt rd 0#5 0b101011#6
  | .sra rd rt sa => encodeR 0b000000#6 0#5 rt rd sa 0b000011#6
  | .srl rd rt sa => encodeR 0b000000#6 0#5 rt rd sa 0b000010#6
  | .sub rd rs rt => encodeR 0b000000#6 rs rt rd 0#5 0b100010#6
  | .subu rd rs rt => encodeR 0b000000#6 rs rt rd 0#5 0b100011#6
  | .syscall code => encodeSys code
  | .xor rd rs rt => encodeR 0b000000#6 rs rt rd 0#5 0b100110#6
  | .xori rt rs imm => encodeI 0b001110#6 rs rt imm
  | .nop => 0x00000000#32
  | .ssnop => 0x00000040#32

/-! ### The assembly idioms -/

/-- R80: what an idiom expands to; every other instruction stands for itself. -/
def Instr.expand (i : Instr) : Instr :=
  match i with
  | .nop => .sll 0#5 0#5 0#5
  | .ssnop => .sll 0#5 0#5 1#5
  | i => i

/-- What a disassembler prints for a word (R73): the idiom for the two words of R80, else the decoded instruction. -/
def disassemble (w : Word) : Except DecodeError Instr :=
  if w = 0x00000000#32 then .ok .nop
  else if w = 0x00000040#32 then .ok .ssnop
  else decode w

end Sys2Proof
end

