-- ==== Sys2Proof/Config.lean ====
section
/-! DEFINITION. What a launch fixes for the whole run (the OPEN parameters of R6), and the free values of `draw_32()`. -/

namespace Sys2Proof

/-- The values `draw_32()` answers (R8, D18), one per draw. It has no body, so nothing can be proved of any of them:
a claim holds for every value. DESIGN CHOICE of form, safe (notes/assumptions/5.md). -/
opaque Config.freeValue : Nat → BitVec 32

/-- The OPEN parameter `trap_entry` of R6: what follows an exception. -/
inductive TrapEntry where
  /-- The default: the run ends (R212). -/
  | endRun
  /-- The run continues into a handler at the vector of R214 (notes/assumptions/4.md, 8.md). -/
  | handler
  deriving DecidableEq, Repr

/-- The OPEN parameters of R6 that a launch fixes and no instruction changes. `program` and `entry` are
`State.mem` and the launch value of `State.pc`. -/
structure Params where
  /-- `big_endian` (R43): the byte order in which the program text is held. -/
  bigEndian : Bool
  /-- `div_overflow` (R142): `none` is `drawn`; `some (hi, lo)` is the pair (HI, LO). -/
  divOverflow : Option (Word × Word)
  /-- `trap_entry` (R6, D13). -/
  trapEntry : TrapEntry
  deriving DecidableEq, Repr

/-- The parameters at the spec's defaults (R6), `big_endian` aside, for which it has none
(DESIGN CHOICE false, notes/assumptions/2.md). -/
def Params.default : Params := { bigEndian := false, divOverflow := none, trapEntry := .endRun }

/-- The pc of `State.reset`: the MIPS32 reset vector R32 and R47 record. PRESUMED, unsafe
(notes/assumptions/7.md): the spec's `entry` is OPEN. -/
def Config.resetEntry : Word := 0xBFC00000#32

/-- The last word of the address space, past which the pc may not advance (R28). -/
def Config.lastWord : Word := 0xFFFFFFFC#32

/-- The offset of the general exception handler from EBase (R214). PRESUMED (notes/assumptions/8.md). -/
def Config.vectorOffset : Word := 0x180#32

/-- The general exception vector when Status.BEV is 1 (R214). PRESUMED (notes/assumptions/8.md). -/
def Config.bootVector : Word := 0xBFC00380#32

end Sys2Proof
end

