-- ==== Sys2Proof/Machine/State.lean ====
section
/-! DEFINITION. The state of the machine as plain data, the reasons a step can stop, and the state after reset. -/

namespace Sys2Proof.Machine

/-- The text of the program as bytes (R40, R43): (address, byte) pairs, addresses strictly rising. An address that is
not listed holds no value. DESIGN CHOICE, safe (notes/assumptions/1.md). -/
abbrev Memory := List Host.Cell

/-- The two synchronous exceptions (R210). -/
inductive ExcCause where
  | integerOverflow
  | systemCall
  deriving DecidableEq, Repr

/-- Why a run is given no meaning from a point on (R33). -/
inductive RefusedReason where
  /-- The word at the pc is none of the 26 instructions (R75). -/
  | undecodable
  /-- The pc is not in the domain of `program` (R42). -/
  | fetchOutsideProgram
  /-- The pc would pass the top of the address space (R28). -/
  | pcWrap
  /-- The entry address of a launch is no multiple of 4 (R44, R240). -/
  | misalignedEntry
  deriving DecidableEq, Repr

/-- The run status, "model state, not hardware state" (R33). -/
inductive Status where
  | running
  /-- `Trapped(cause, at)`, `at` the address of the raising instruction. -/
  | trapped (cause : ExcCause) (raisedAt : Word)
  | refused (reason : RefusedReason)
  deriving DecidableEq, Repr

/-- The coprocessor 0 state that R214 gives trap entry on real hardware, "for information only". It is written only
where the parameter `trap_entry` is a handler; by the spec's default nothing reads or writes it (R30).
PRESUMED, unsafe (notes/assumptions/8.md). -/
structure Cp0 where
  epc : Word
  /-- Cause.ExcCode, bits 6..2 of Cause (R211). -/
  causeExcCode : BitVec 5
  causeBd : Bool
  statusExl : Bool
  statusBev : Bool
  ebase : Word
  deriving DecidableEq, Repr

/-- The whole machine: the tuple `(x[1..31], HI, LO, pc, status)` of 10_state.md, the parameters a launch fixes (R6),
the CP0 state of R214, and the model's own counter of draws. -/
structure State where
  /-- `x[1]` .. `x[31]` at indices 0 .. 30 (R20); `x[0]` is not stored (R21). -/
  gpr : Vector Word 31
  hi : Word
  lo : Word
  pc : Word
  status : Status
  mem : Memory
  params : Params
  cp0 : Cp0
  /-- How many values `draw_32()` has answered: the MODEL's own field, no hardware state (notes/assumptions/5.md). -/
  draws : Nat
  deriving DecidableEq, Repr

/-- Why the machine stops with a fault. -/
inductive Fault where
  /-- Raised by `step` in a `Trapped` state, which "has no next step" (R212, R33): the run has ended. Safe: nothing
  is claimed of what a handler does (notes/assumptions/11.md). -/
  | runTrapped (cause : ExcCause) (raisedAt : Word)
  deriving DecidableEq, Repr

/-- Why the machine gives a situation no meaning. -/
inductive Refusal where
  /-- Raised by an arm of `exec` that has no meaning yet. Safe: nothing is claimed of the instruction. -/
  | notModelled (mnemonic : String)
  /-- Raised by `step` in a `Refused` state, which has no next step (R33): the spec gives the run no meaning from this
  point (R246). Safe: nothing is claimed of such a run (notes/assumptions/11.md). -/
  | runRefused (reason : RefusedReason)
  deriving DecidableEq, Repr

/-- CP0 at reset, and at a launch (DESIGN CHOICE, notes/assumptions/31.md). PRESUMED, the family's values, and DESIGN CHOICE zero where the family has none; unsafe
(notes/assumptions/7.md). -/
def Cp0.reset : Cp0 :=
  { epc := 0#32, causeExcCode := 0#5, causeBd := false, statusExl := false, statusBev := true, ebase := 0x80000000#32 }

/-- The machine right after reset: the launch of R32 and R240 with no program placed. `status` is the spec's; the
registers, HI and LO are arbitrary there and zero here (DESIGN CHOICE, unsafe, notes/assumptions/6.md); the pc is the
family's reset vector (PRESUMED, unsafe, notes/assumptions/7.md). -/
def State.reset : State :=
  { gpr := Vector.replicate 31 0#32, hi := 0#32, lo := 0#32, pc := Config.resetEntry, status := .running,
    mem := [], params := Params.default, cp0 := Cp0.reset, draws := 0 }

end Sys2Proof.Machine
end

