-- ==== Sys2Proof/Machine/Ops.lean ====
section
/-! DEFINITION. The named operations over registers and memory, drawing a free value, ending an instruction, taking an
exception and returning from one, and the launch. -/

namespace Sys2Proof.Machine

/-! ### General registers -/

/-- Where register `r` from 1 to 31 is stored. -/
def regIndex (r : Reg) : Fin 31 := ⟨r.toNat - 1, by have := r.isLt; omega⟩

/-- `x[r]` (R8): register 0 reads as zero (R21). UNVERIFIED by the source for register 0 (notes/assumptions/16.md). -/
def State.readReg (s : State) (r : Reg) : Word := if r = 0#5 then 0#32 else s.gpr[(regIndex r).val]

/-- `x[r] <- v` (R8): a write to register 0 is discarded (R21). -/
def State.writeReg (s : State) (r : Reg) (v : Word) : State :=
  if r = 0#5 then s else { s with gpr := s.gpr.set (regIndex r).val v }

/-- `HI <- hi; LO <- lo` (R8, R24). -/
def State.setHiLo (s : State) (hi lo : Word) : State := { s with hi := hi, lo := lo }

/-! ### Free values -/

/-- `draw_32()` (R8): the value of the next draw. -/
def State.drawn (s : State) (k : Nat) : Word := Config.freeValue (s.draws + k)

/-- `LO <- draw_32(); HI <- draw_32()`, two independent draws (R148, and R142 where `div_overflow` is `drawn`). -/
def State.drawLoHi (s : State) : State := { s with lo := s.drawn 0, hi := s.drawn 1, draws := s.draws + 2 }

/-- `HI <- draw_32(); LO <- draw_32()`, two independent draws (R145). -/
def State.drawHiLo (s : State) : State := { s with hi := s.drawn 0, lo := s.drawn 1, draws := s.draws + 2 }

/-! ### Ending an instruction -/

/-- `pc <- p` (R8). -/
def State.setPc (s : State) (p : Word) : State := { s with pc := p }

/-- `status <- Refused(reason)`, "and nothing else changes" (R28, R42, R75). -/
def State.refuse (s : State) (reason : RefusedReason) : State := { s with status := .refused reason }

/-- An instruction that does not raise ends: the last two tests of R216. At the last word of the address space none
of its writes is made and the run is refused (R28); otherwise the writes, already in `written`, stand and the pc
advances by 4 (R27). -/
def State.finish (s written : State) : Host.Outcome State Fault Refusal :=
  if s.pc = Config.lastWord then .next (s.refuse .pcWrap) else .next (written.setPc (s.pc + 4#32))

/-! ### Exceptions -/

/-- The ExcCode of an exception (R211). UNVERIFIED by the source (notes/assumptions/9.md). -/
def excCode (c : ExcCause) : BitVec 5 :=
  match c with
  | .integerOverflow => 12#5
  | .systemCall => 8#5

/-- The general exception vector (R214): by Status.BEV, and EBase + 0x180, which is 0x8000_0180 where EBase holds its
reset value. PRESUMED (notes/assumptions/8.md, 30.md). -/
def Cp0.vector (c : Cp0) : Word := if c.statusBev then Config.bootVector else c.ebase + Config.vectorOffset

/-- What CP0 holds after an exception raised at `pc` (R214). With Status.EXL already set EPC is not updated (R215), and
Cause.BD with it (DEDUCED, notes/assumptions/10.md). No instruction stands in a delay slot (R244), so Cause.BD is
never set. -/
def Cp0.enter (c : Cp0) (cause : ExcCause) (pc : Word) : Cp0 :=
  { c with
    epc := if c.statusExl then c.epc else pc
    causeBd := if c.statusExl then c.causeBd else false
    causeExcCode := excCode cause
    statusExl := true }

/-- The state after the instruction at the pc raises `cause`. By the default of `trap_entry` the run ends, nothing else
changed (R212); with a handler, entry is that of R214. General registers, HI and LO are never written (R213, R214). -/
def State.takeException (s : State) (cause : ExcCause) : State :=
  match s.params.trapEntry with
  | .endRun => { s with status := .trapped cause s.pc }
  | .handler => { s with pc := s.cp0.vector, cp0 := s.cp0.enter cause s.pc }

/-- `raise E()` (R212). -/
def State.raise (s : State) (cause : ExcCause) : Host.Outcome State Fault Refusal := .next (s.takeException cause)

/-- The return from an exception as R215 records it: the pc takes EPC and Status.EXL is cleared. No instruction in scope
performs it. PRESUMED (notes/assumptions/8.md). -/
def State.returnFromException (s : State) : State :=
  { s with pc := s.cp0.epc, cp0 := { s.cp0 with statusExl := false } }

/-! ### The program text -/

/-- The byte an address holds, if it holds one. -/
def Memory.read (m : Memory) (a : Nat) : Option Byte :=
  match m with
  | [] => none
  | (k, b) :: rest => if k = a then some b else Memory.read rest a

/-- Place one byte; the addresses stay strictly rising. Only a loader does this: no instruction writes memory (R40). -/
def Memory.write (m : Memory) (a : Nat) (b : Byte) : Memory :=
  match m with
  | [] => [(a, b)]
  | (k, c) :: rest =>
    if a < k then (a, b) :: (k, c) :: rest
    else if a = k then (a, b) :: rest
    else (k, c) :: Memory.write rest a b

/-- The canonical form: addresses strictly rising and within the 32-bit address space (R40). -/
abbrev Memory.wf (m : Memory) : Prop := m.Pairwise (fun x y => x.1 < y.1) ∧ ∀ c ∈ m, c.1 < 2 ^ 32

/-- Place a 32-bit word at `a`, in the byte order of R43. -/
def Memory.storeWord (m : Memory) (bigEndian : Bool) (a : Nat) (w : Word) : Memory :=
  (((m.write a (byteOfWord bigEndian w 0)).write (a + 1) (byteOfWord bigEndian w 1)).write (a + 2)
    (byteOfWord bigEndian w 2)).write (a + 3) (byteOfWord bigEndian w 3)

/-- `program(a)` (R40, R41): the word at `a`, where `a` is a multiple of 4 and its four bytes are all placed. An address
that is no multiple of 4, or a word placed in part, is outside the domain of `program` (notes/assumptions/1.md, 28.md). -/
def Memory.fetchWord (m : Memory) (bigEndian : Bool) (a : Nat) : Option Word :=
  if a % 4 = 0 then
    match m.read a, m.read (a + 1), m.read (a + 2), m.read (a + 3) with
    | some b0, some b1, some b2, some b3 => some (wordOfBytes bigEndian b0 b1 b2 b3)
    | _, _, _, _ => none
  else none

/-- `Fetch(pc)` (R41). -/
def State.fetch (s : State) : Option Word := s.mem.fetchWord s.params.bigEndian s.pc.toNat

/-- The words of a program and where they stand (R40): a finite map, the first entry of an address counting. -/
abbrev Program := List (Word × Word)

/-- The program as bytes. -/
def Program.toMemory (bigEndian : Bool) (p : Program) : Memory :=
  match p with
  | [] => []
  | (a, w) :: rest => (Program.toMemory bigEndian rest).storeWord bigEndian a.toNat w

/-- The `code` of the SYSCALL at which a run ended: "a claim may read `code` off the program text at the address `at`"
(R200). -/
def State.trapCode (s : State) : Option SysCode :=
  match s.status with
  | .trapped .systemCall raisedAt =>
    match s.mem.fetchWord s.params.bigEndian raisedAt.toNat with
    | some w => some w.sysCode
    | none => none
  | _ => none

/-! ### Launch -/

/-- The launch state (R32, R240) of a program at an entry address, with the register values it is given; an entry that
is no multiple of 4 is refused (R44). R32 gives the control registers no value at a launch: the CP0 fields are those of
`Cp0.reset`, Status.BEV 1 among them, so a launched run that enters a handler uses the vector of BEV = 1. DESIGN CHOICE,
unsafe (notes/assumptions/31.md). -/
def State.launch (program : Program) (entry : Word) (params : Params) (gpr : Vector Word 31) (hi lo : Word) : State :=
  { State.reset with
    gpr := gpr, hi := hi, lo := lo, pc := entry, params := params, mem := Program.toMemory params.bigEndian program
    status := if entry.toNat % 4 = 0 then .running else .refused .misalignedEntry }

end Sys2Proof.Machine
end

