-- ==== Sys2Proof/Machine/Operands.lean ====
section
/-! DEFINITION. The operand forms: immediates (R67, R68) and the shift amount (R69). Register operands are
`State.readReg` and `State.writeReg`. -/

namespace Sys2Proof.Machine

/-- `simm = sext_32(instr[15:0])` (R67): ADDI, ADDIU, SLTI, SLTIU. -/
def simm (imm : Imm16) : Word := imm.signExtend 32

/-- `zimm = zext_32(instr[15:0])` (R68): ANDI, ORI, XORI. -/
def zimm (imm : Imm16) : Word := imm.zeroExtend 32

/-- `s = unsigned(instr[10:6])`, 0 to 31 (R69): SLL, SRA, SRL. -/
def shiftAmount (sa : Shamt) : Nat := sa.toNat

end Sys2Proof.Machine
end

