-- ==== Sys2Proof/Machine/Flags.lean ====
section
/-! DEFINITION. The machine has no flags and no condition codes (R29). What other machines report in flags it computes
here: the overflow test of ADD, ADDI and SUB (R100) and the Boolean result of a comparison (R180). -/

namespace Sys2Proof.Machine

/-- The 33-bit `temp` of an addition (R100): both operands widened by their sign bit. -/
def addTemp (a b : Word) : BitVec 33 := BitVec.ofInt 33 ((a.signExtend 33).toInt + (b.signExtend 33).toInt)

/-- The 33-bit `temp` of a subtraction (R100). -/
def subTemp (a b : Word) : BitVec 33 := BitVec.ofInt 33 ((a.signExtend 33).toInt - (b.signExtend 33).toInt)

/-- `overflow = (t33[32] != t33[31])` (R100). -/
def overflows (t33 : BitVec 33) : Bool := t33.getLsbD 32 != t33.getLsbD 31

/-- `result = t33[31:0]` (R100, C2). -/
def tempResult (t33 : BitVec 33) : Word := t33.extractLsb' 0 32

/-- The Boolean result of a comparison as a register holds it: 0x00000001 or 0x00000000 (R180). -/
def boolWord (b : Bool) : Word := if b then 0x00000001#32 else 0x00000000#32

end Sys2Proof.Machine
end

