-- ==== Sys2Proof/Machine/AddSub.lean ====
section
/-! DEFINITION. Add and subtract (40_add_sub.md): ADD, ADDI, ADDIU, ADDU, SUB, SUBU. -/

namespace Sys2Proof.Machine

/-- The end of ADD, ADDI and SUB: raise Integer Overflow, the destination not modified, or write bits 31..0 (R100). -/
def State.finishTrapping (s : State) (d : Reg) (t33 : BitVec 33) : Host.Outcome State Fault Refusal :=
  if overflows t33 then s.raise .integerOverflow else s.finish (s.writeReg d (tempResult t33))

/-- ADD rd, rs, rt (R101). -/
def execAdd (rd rs rt : Reg) (s : State) : Host.Outcome State Fault Refusal :=
  s.finishTrapping rd (addTemp (s.readReg rs) (s.readReg rt))

/-- ADDI rt, rs, immediate (R102). -/
def execAddi (rt rs : Reg) (imm : Imm16) (s : State) : Host.Outcome State Fault Refusal :=
  s.finishTrapping rt (addTemp (s.readReg rs) (simm imm))

/-- ADDIU rt, rs, immediate (R103). -/
def execAddiu (rt rs : Reg) (imm : Imm16) (s : State) : Host.Outcome State Fault Refusal :=
  s.finish (s.writeReg rt (BitVec.ofNat 32 ((s.readReg rs).toNat + (simm imm).toNat)))

/-- ADDU rd, rs, rt (R104). -/
def execAddu (rd rs rt : Reg) (s : State) : Host.Outcome State Fault Refusal :=
  s.finish (s.writeReg rd (BitVec.ofNat 32 ((s.readReg rs).toNat + (s.readReg rt).toNat)))

/-- SUB rd, rs, rt (R105). -/
def execSub (rd rs rt : Reg) (s : State) : Host.Outcome State Fault Refusal :=
  s.finishTrapping rd (subTemp (s.readReg rs) (s.readReg rt))

/-- SUBU rd, rs, rt (R106). -/
def execSubu (rd rs rt : Reg) (s : State) : Host.Outcome State Fault Refusal :=
  s.finish (s.writeReg rd (BitVec.ofInt 32 ((s.readReg rs).toNat - (s.readReg rt).toNat)))

end Sys2Proof.Machine
end

