-- ==== Sys2Proof/Machine/Logical.lean ====
section
/-! DEFINITION. Bitwise logical instructions (41_logical.md): AND, ANDI, NOR, OR, ORI, XOR, XORI. None raises: the
line under `Exceptions:` is lost on all seven pages and R210 takes it as "None" (notes/assumptions/18.md). -/

namespace Sys2Proof.Machine

/-- AND rd, rs, rt (R120). -/
def execAnd (rd rs rt : Reg) (s : State) : Host.Outcome State Fault Refusal :=
  s.finish (s.writeReg rd (s.readReg rs &&& s.readReg rt))

/-- ANDI rt, rs, immediate (R121). -/
def execAndi (rt rs : Reg) (imm : Imm16) (s : State) : Host.Outcome State Fault Refusal :=
  s.finish (s.writeReg rt (s.readReg rs &&& zimm imm))

/-- NOR rd, rs, rt (R122). -/
def execNor (rd rs rt : Reg) (s : State) : Host.Outcome State Fault Refusal :=
  s.finish (s.writeReg rd (~~~(s.readReg rs ||| s.readReg rt)))

/-- OR rd, rs, rt (R123). -/
def execOr (rd rs rt : Reg) (s : State) : Host.Outcome State Fault Refusal :=
  s.finish (s.writeReg rd (s.readReg rs ||| s.readReg rt))

/-- ORI rt, rs, immediate (R124, C7). -/
def execOri (rt rs : Reg) (imm : Imm16) (s : State) : Host.Outcome State Fault Refusal :=
  s.finish (s.writeReg rt (s.readReg rs ||| zimm imm))

/-- XOR rd, rs, rt (R125). -/
def execXor (rd rs rt : Reg) (s : State) : Host.Outcome State Fault Refusal :=
  s.finish (s.writeReg rd (s.readReg rs ^^^ s.readReg rt))

/-- XORI rt, rs, immediate (R126, C7). -/
def execXori (rt rs : Reg) (imm : Imm16) (s : State) : Host.Outcome State Fault Refusal :=
  s.finish (s.writeReg rt (s.readReg rs ^^^ zimm imm))

end Sys2Proof.Machine
end

