-- ==== Sys2Proof/Machine/MulDiv.lean ====
section
/-! DEFINITION. Multiply and divide (42_mul_div.md): DIV, DIVU, MUL, MULT, MULTU. Results are written in the step that
executes the instruction (R140); none raises. -/

namespace Sys2Proof.Machine

/-- The quotient rounded toward zero (R141). UNVERIFIED by the source (notes/assumptions/17.md). -/
def tdiv (n d : Int) : Int := n.sign * d.sign * ((n.natAbs / d.natAbs : Nat) : Int)

/-- The remainder of `tdiv`, zero or of the dividend's sign (R141). -/
def tmod (n d : Int) : Int := n - tdiv n d * d

/-- `(HI, LO) <- div_overflow` (R142): the pair, or two draws. -/
def State.divOverflowResult (s : State) : State :=
  match s.params.divOverflow with
  | some (hi, lo) => s.setHiLo hi lo
  | none => s.drawLoHi

/-- DIV rs, rt (R143): zero divisor R148, -2^31 by -1 R142, else R141. -/
def execDiv (rs rt : Reg) (s : State) : Host.Outcome State Fault Refusal :=
  let n := (s.readReg rs).toInt
  let d := (s.readReg rt).toInt
  if d = 0 then s.finish s.drawLoHi
  else if n = -2147483648 ∧ d = -1 then s.finish s.divOverflowResult
  else s.finish (s.setHiLo (BitVec.ofInt 32 (tmod n d)) (BitVec.ofInt 32 (tdiv n d)))

/-- DIVU rs, rt (R144): zero divisor R148. -/
def execDivu (rs rt : Reg) (s : State) : Host.Outcome State Fault Refusal :=
  let n := (s.readReg rs).toNat
  let d := (s.readReg rt).toNat
  if d = 0 then s.finish s.drawLoHi
  else s.finish (s.setHiLo (BitVec.ofNat 32 (n - d * (n / d))) (BitVec.ofNat 32 (n / d)))

/-- MUL rd, rs, rt (R145): the low 32 bits to rd; HI and LO are drawn, also where rd is 0. -/
def execMul (rd rs rt : Reg) (s : State) : Host.Outcome State Fault Refusal :=
  s.finish (s.writeReg rd (BitVec.ofInt 32 ((s.readReg rs).toInt * (s.readReg rt).toInt))).drawHiLo

/-- `LO <- prod[31:0]; HI <- prod[63:32]` (R146, R147). -/
def State.setProduct (s : State) (prod : BitVec 64) : State :=
  s.setHiLo (prod.extractLsb' 32 32) (prod.extractLsb' 0 32)

/-- MULT rs, rt (R146). -/
def execMult (rs rt : Reg) (s : State) : Host.Outcome State Fault Refusal :=
  s.finish (s.setProduct (BitVec.ofInt 64 ((s.readReg rs).toInt * (s.readReg rt).toInt)))

/-- MULTU rs, rt (R147). -/
def execMultu (rs rt : Reg) (s : State) : Host.Outcome State Fault Refusal :=
  s.finish (s.setProduct (BitVec.ofNat 64 ((s.readReg rs).toNat * (s.readReg rt).toNat)))

end Sys2Proof.Machine
end

