-- ==== Sys2Proof/Machine/SetLess.lean ====
section
/-! DEFINITION. Set on less than (44_set_less_than.md): SLT, SLTI, SLTIU, SLTU. None raises; the line under
`Exceptions:` is lost on all four pages (R210, notes/assumptions/18.md). -/

namespace Sys2Proof.Machine

/-- SLT rd, rs, rt (R180). -/
def execSlt (rd rs rt : Reg) (s : State) : Host.Outcome State Fault Refusal :=
  s.finish (s.writeReg rd (boolWord (decide ((s.readReg rs).toInt < (s.readReg rt).toInt))))

/-- SLTI rt, rs, immediate (R181). -/
def execSlti (rt rs : Reg) (imm : Imm16) (s : State) : Host.Outcome State Fault Refusal :=
  s.finish (s.writeReg rt (boolWord (decide ((s.readReg rs).toInt < (simm imm).toInt))))

/-- SLTIU rt, rs, immediate (R182, C6): the immediate is sign-extended, then compared unsigned. -/
def execSltiu (rt rs : Reg) (imm : Imm16) (s : State) : Host.Outcome State Fault Refusal :=
  s.finish (s.writeReg rt (boolWord (decide ((s.readReg rs).toNat < (simm imm).toNat))))

/-- SLTU rd, rs, rt (R183). -/
def execSltu (rd rs rt : Reg) (s : State) : Host.Outcome State Fault Refusal :=
  s.finish (s.writeReg rd (boolWord (decide ((s.readReg rs).toNat < (s.readReg rt).toNat))))

end Sys2Proof.Machine
end

