-- ==== Sys2Proof/Machine/Shift.lean ====
section
/-! DEFINITION. Shifts by a constant and the no-operation idioms (43_shift_nop.md): SLL, SRA, SRL, NOP, SSNOP. -/

namespace Sys2Proof.Machine

/-- `rd` takes `x[rt]` shifted left by `sa`, zeros entering (R162). -/
def State.shiftLeft (s : State) (rd rt : Reg) (sa : Shamt) : Host.Outcome State Fault Refusal :=
  s.finish (s.writeReg rd (s.readReg rt <<< shiftAmount sa))

/-- SLL rd, rt, sa (R162). -/
def execSll (rd rt : Reg) (sa : Shamt) (s : State) : Host.Outcome State Fault Refusal := s.shiftLeft rd rt sa

/-- SRA rd, rt, sa (R163, C5): copies of bit 31 enter. -/
def execSra (rd rt : Reg) (sa : Shamt) (s : State) : Host.Outcome State Fault Refusal :=
  s.finish (s.writeReg rd ((s.readReg rt).sshiftRight (shiftAmount sa)))

/-- SRL rd, rt, sa (R164, C5): zeros enter. -/
def execSrl (rd rt : Reg) (sa : Shamt) (s : State) : Host.Outcome State Fault Refusal :=
  s.finish (s.writeReg rd (s.readReg rt >>> shiftAmount sa))

/-- NOP, "interpreted by the hardware as SLL r0, r0, 0" (R160): R162 with rd 0, rt 0, s 0. -/
def execNop (s : State) : Host.Outcome State Fault Refusal := s.shiftLeft 0#5 0#5 0#5

/-- SSNOP, "SLL r0, r0, 1" (R161): R162 with rd 0, rt 0, s 1. Its issue break is timing (notes/assumptions/21.md). -/
def execSsnop (s : State) : Host.Outcome State Fault Refusal := s.shiftLeft 0#5 0#5 1#5

end Sys2Proof.Machine
end

