-- ==== Sys2Proof/Machine/Syscall.lean ====
section
/-! DEFINITION. SYSCALL (45_syscall.md). -/

namespace Sys2Proof.Machine

/-- SYSCALL (R200): raises System Call on every execution, whatever `code` holds. -/
def execSyscall (_code : SysCode) (s : State) : Host.Outcome State Fault Refusal := s.raise .systemCall

end Sys2Proof.Machine
end

