-- ==== Sys2Proof/Machine/Step.lean ====
section
/-! DEFINITION. One step of the machine: fetch, decode, execute. -/

namespace Sys2Proof.Machine

/-- One step (R41, R216). Only a `Running` state has a next step (R33). The tests stand in the order of R216: a pc
outside the program, an undecodable word, then what the instruction itself does (raise, wrap, write). -/
def step (s : State) : Host.Outcome State Fault Refusal :=
  match s.status with
  | .trapped cause raisedAt => .fault (.runTrapped cause raisedAt)
  | .refused reason => .refused (.runRefused reason)
  | .running =>
    match s.fetch with
    | none => .next (s.refuse .fetchOutsideProgram)
    | some w =>
      match decode w with
      | .error _ => .next (s.refuse .undecodable)
      | .ok i => exec i s

/-- The state with an instruction stored where `step` fetches next: the word at the pc, in the state's byte order. It
stands for a loader placing the program (R240, notes/assumptions/24.md). -/
def State.withFetchWord (s : State) (nbits w : Nat) : State :=
  { s with mem := s.mem.storeWord s.params.bigEndian s.pc.toNat (tableWord nbits w) }

end Sys2Proof.Machine
end

