-- ==== Sys2Proof/Safety.lean ====
section
/-! DEFINITION. The terms claims are stated in: which registers an instruction reads and writes (R22, R25), when it raises
(R210), what a completed and what a raising instruction leave (R27, R212, R214), the invariant of a run, and a run and
its end (R246). They are written from the rules, not from the meanings in Machine/. -/

namespace Sys2Proof

open Machine

/-! ### What an instruction reads and writes -/

/-- The general registers an instruction reads, by the table of R22. -/
def Instr.reads (i : Instr) : List Reg :=
  match i with
  | .add _ rs rt | .addu _ rs rt | .sub _ rs rt | .subu _ rs rt | .and _ rs rt | .or _ rs rt | .xor _ rs rt
  | .nor _ rs rt | .slt _ rs rt | .sltu _ rs rt | .mul _ rs rt => [rs, rt]
  | .addi _ rs _ | .addiu _ rs _ | .andi _ rs _ | .ori _ rs _ | .xori _ rs _ | .slti _ rs _ | .sltiu _ rs _ => [rs]
  | .sll _ rt _ | .sra _ rt _ | .srl _ rt _ => [rt]
  | .nop | .ssnop => [0#5]
  | .div rs rt | .divu rs rt | .mult rs rt | .multu rs rt => [rs, rt]
  | .syscall _ => []

/-- The general register an instruction writes, by the table of R22. -/
def Instr.writes (i : Instr) : Option Reg :=
  match i with
  | .add rd _ _ | .addu rd _ _ | .sub rd _ _ | .subu rd _ _ | .and rd _ _ | .or rd _ _ | .xor rd _ _ | .nor rd _ _
  | .slt rd _ _ | .sltu rd _ _ | .mul rd _ _ => some rd
  | .addi rt _ _ | .addiu rt _ _ | .andi rt _ _ | .ori rt _ _ | .xori rt _ _ | .slti rt _ _ | .sltiu rt _ _ => some rt
  | .sll rd _ _ | .sra rd _ _ | .srl rd _ _ => some rd
  | .nop | .ssnop => some 0#5
  | .div _ _ | .divu _ _ | .mult _ _ | .multu _ _ => none
  | .syscall _ => none

/-- DIV, DIVU, MULT, MULTU write HI and LO and MUL leaves them UNPREDICTABLE (R25); no other instruction touches them. -/
def Instr.writesHiLo (i : Instr) : Bool :=
  match i with
  | .div _ _ | .divu _ _ | .mult _ _ | .multu _ _ | .mul _ _ _ => true
  | .add _ _ _ | .addi _ _ _ | .addiu _ _ _ | .addu _ _ _ | .and _ _ _ | .andi _ _ _ | .nor _ _ _ | .or _ _ _
  | .ori _ _ _ | .sll _ _ _ | .slt _ _ _ | .slti _ _ _ | .sltiu _ _ _ | .sltu _ _ _ | .sra _ _ _ | .srl _ _ _
  | .sub _ _ _ | .subu _ _ _ | .syscall _ | .xor _ _ _ | .xori _ _ _ | .nop | .ssnop => false

/-! ### When an instruction raises -/

/-- The integer lies in the range of a 32-bit signed value, -2^31 .. 2^31-1 (R100). -/
abbrev InSigned32 (n : Int) : Prop := -2147483648 ≤ n ∧ n ≤ 2147483647

/-- Integer Overflow, where the exact result does not fit (R100). -/
def overflowOf (n : Int) : Option ExcCause := if InSigned32 n then none else some .integerOverflow

/-- The exception an instruction raises in a state, by the table of R210. -/
def Instr.raises (i : Instr) (s : State) : Option ExcCause :=
  match i with
  | .add _ rs rt => overflowOf ((s.readReg rs).toInt + (s.readReg rt).toInt)
  | .addi _ rs imm => overflowOf ((s.readReg rs).toInt + imm.toInt)
  | .sub _ rs rt => overflowOf ((s.readReg rs).toInt - (s.readReg rt).toInt)
  | .syscall _ => some .systemCall
  | .addiu _ _ _ | .addu _ _ _ | .and _ _ _ | .andi _ _ _ | .div _ _ | .divu _ _ | .mul _ _ _ | .mult _ _
  | .multu _ _ | .nor _ _ _ | .or _ _ _ | .ori _ _ _ | .sll _ _ _ | .slt _ _ _ | .slti _ _ _ | .sltiu _ _ _
  | .sltu _ _ _ | .sra _ _ _ | .srl _ _ _ | .subu _ _ _ | .xor _ _ _ | .xori _ _ _ | .nop | .ssnop => none

namespace Machine

/-! ### What an instruction leaves -/

/-- No general register differs. -/
def SameRegs (s t : State) : Prop := ∀ r, t.readReg r = s.readReg r

/-- Of the general registers `d` alone takes `v`; where `d` is register 0 the write is discarded (R21). -/
def RegTakes (s t : State) (d : Reg) (v : Word) : Prop :=
  ∀ r, t.readReg r = if r = d ∧ d ≠ 0#5 then v else s.readReg r

/-- Every byte of memory and every launch parameter is as before. -/
def SameProgram (s t : State) : Prop := (∀ a, t.mem.read a = s.mem.read a) ∧ t.params = s.params

/-- An instruction completed (R27): the pc advanced by 4, the status, the CP0 state, memory and the parameters are as
before. -/
def Completed (s t : State) : Prop :=
  t.pc = s.pc + 4#32 ∧ t.status = s.status ∧ t.cp0 = s.cp0 ∧ SameProgram s t

/-- `t` is what an instruction leaves in `s` that wrote `v` to register `d` and nothing else. -/
def OnlyReg (s t : State) (d : Reg) (v : Word) : Prop :=
  RegTakes s t d v ∧ t.hi = s.hi ∧ t.lo = s.lo ∧ t.draws = s.draws ∧ Completed s t

/-- `t` is what an instruction leaves in `s` that wrote HI and LO and nothing else. -/
def OnlyHiLo (s t : State) (hi lo : Word) : Prop :=
  SameRegs s t ∧ t.hi = hi ∧ t.lo = lo ∧ t.draws = s.draws ∧ Completed s t

/-- HI and LO of `t` are two different draws made since `s` (R8: "Two draws are independent"). Nothing is known of their
values. -/
def DrewHiLo (s t : State) : Prop :=
  ∃ j k, j ≠ k ∧ s.draws ≤ j ∧ j < t.draws ∧ s.draws ≤ k ∧ k < t.draws ∧
    t.hi = Config.freeValue j ∧ t.lo = Config.freeValue k

/-- What the CP0 state is after `cause` was raised at `pc`, with a handler (R211, R214; with EXL set R215). -/
def EnteredHandler (before after : Cp0) (cause : ExcCause) (pc : Word) : Prop :=
  after.causeExcCode = (match cause with | .integerOverflow => 12#5 | .systemCall => 8#5) ∧
  after.statusExl = true ∧ after.statusBev = before.statusBev ∧ after.ebase = before.ebase ∧
  (before.statusExl = false → after.epc = pc ∧ after.causeBd = false) ∧
  (before.statusExl = true → after.epc = before.epc ∧ after.causeBd = before.causeBd)

/-- `t` is what raising `cause` leaves in `s`: no general register, HI or LO differs, nothing is drawn, memory is as
before; by the default of `trap_entry` the status is `Trapped(cause, pc)`, the pc stays and CP0 is as before (R212). -/
def Raised (s t : State) (cause : ExcCause) : Prop :=
  SameRegs s t ∧ t.hi = s.hi ∧ t.lo = s.lo ∧ t.draws = s.draws ∧ SameProgram s t ∧
  (s.params.trapEntry = .endRun → t.status = .trapped cause s.pc ∧ t.pc = s.pc ∧ t.cp0 = s.cp0)

/-! ### The invariant of a run -/

/-- The address is a multiple of 4 (R26, R44). -/
abbrev Aligned (a : Word) : Prop := a.toNat % 4 = 0

/-- What holds in every state of a run from an aligned entry: the pc is a multiple of 4 (R26), the program text is in
canonical form, a `Trapped` state names the pc it stopped at (R212), and the addresses CP0 holds are aligned. -/
def State.Inv (s : State) : Prop :=
  Aligned s.pc ∧ s.mem.wf ∧ (∀ c a, s.status = .trapped c a → a = s.pc) ∧ Aligned s.cp0.epc ∧ Aligned s.cp0.ebase

/-! ### Runs -/

/-- The state after at most `k` steps: a state that has no next step stays (R33, R246). -/
def runFor (k : Nat) (s : State) : State :=
  match k with
  | 0 => s
  | k + 1 =>
    match step s with
    | .next t => runFor k t
    | .fault _ => s
    | .refused _ => s

/-- The normal end of a program (R246): it executed SYSCALL. -/
def State.endedNormally (s : State) : Prop := ∃ a, s.status = .trapped .systemCall a

end Machine

end Sys2Proof
end

