-- ==== Sys2Proof/Certificates/Slice0/Obligations.lean ====
section
/-! DEFINITION. The statements for the provers, from the numbered rules of spec/. -/

open Sys2Proof Sys2Proof.Machine

/-! ### A step, decoding and encoding -/

/-- R41: a step of a Running state fetches the word at the pc, decodes it and is the decoded instruction's own effect;
the step adds nothing around it. -/
def Obligations.StepRunsDecodedInstruction : Prop :=
  ∀ (s : State) (w : Word) (i : Instr), s.status = .running → s.fetch = some w → decode w = .ok i → step s = exec i s

/-- Words of 95_test_vectors.md section 4, one of each family and format, and three that are refused. -/
def Obligations.DecodeSampleWords : Prop :=
  decode 0x00221820#32 = .ok (.add 3 1 2) ∧ decode 0x2022FFFF#32 = .ok (.addi 2 1 0xFFFF#16) ∧
  decode 0x3402FFFF#32 = .ok (.ori 2 0 0xFFFF#16) ∧ decode 0x70221802#32 = .ok (.mul 3 1 2) ∧
  decode 0x0022001A#32 = .ok (.div 1 2) ∧ decode 0x000117C3#32 = .ok (.sra 2 1 31) ∧
  decode 0x0022182A#32 = .ok (.slt 3 1 2) ∧ decode 0x03FFFFCC#32 = .ok (.syscall 0xFFFFF#20) ∧
  decode 0x00000000#32 = .ok (.sll 0 0 0) ∧ decode 0x00000040#32 = .ok (.sll 0 0 1) ∧
  decode 0x8C220000#32 = .error .undecodable ∧ decode 0x0022181A#32 = .error .undecodable ∧
  decode 0xFFFFFFFF#32 = .error .undecodable

/-- R73 with the 26 masks and matches of R82 and R83, written out: a word is Undecodable exactly where it satisfies no
row, and no word satisfies two. -/
def Obligations.DecodeMatchesMasksOfTable : Prop :=
  let table : List (Word × Word) :=
    [(0xFFE0003F, 0x00000000), (0xFFE0003F, 0x00000002), (0xFFE0003F, 0x00000003), (0xFC0007FF, 0x00000020),
     (0xFC0007FF, 0x00000021), (0xFC0007FF, 0x00000022), (0xFC0007FF, 0x00000023), (0xFC0007FF, 0x00000024),
     (0xFC0007FF, 0x00000025), (0xFC0007FF, 0x00000026), (0xFC0007FF, 0x00000027), (0xFC0007FF, 0x0000002A),
     (0xFC0007FF, 0x0000002B), (0xFC0007FF, 0x70000002), (0xFC000000, 0x34000000), (0xFC000000, 0x20000000),
     (0xFC000000, 0x24000000), (0xFC000000, 0x28000000), (0xFC000000, 0x2C000000), (0xFC000000, 0x30000000),
     (0xFC000000, 0x38000000), (0xFC00FFFF, 0x00000018), (0xFC00FFFF, 0x00000019), (0xFC00FFFF, 0x0000001A),
     (0xFC00FFFF, 0x0000001B), (0xFC00003F, 0x0000000C)]
  ∀ w : Word,
    (decode w = .error .undecodable ↔ ∀ e ∈ table, w &&& e.1 ≠ e.2) ∧
    (∀ e ∈ table, ∀ f ∈ table, w &&& e.1 = e.2 → w &&& f.1 = f.2 → e = f)

/-- R84: decoding is the inverse of assembling, for every instruction and every value of every field. -/
def Obligations.DecodeEncodeRoundTrip : Prop :=
  ∀ i : Instr, i.wellFormed = true → decode (encode i) = .ok i

/-- R73, R84: each word has at most one meaning, and assembling it gives the word back. -/
def Obligations.EncodeDecodeRoundTrip : Prop :=
  ∀ (w : Word) (i : Instr), decode w = .ok i → i.wellFormed = true ∧ encode i = w

/-- R84: the assembled word as a number, each field at its place. -/
def Obligations.AssembledWordIsSumOfShiftedFields : Prop :=
  (∀ (op fn : BitVec 6) (rs rt rd : Reg) (sa : Shamt), (encodeR op rs rt rd sa fn).toNat =
    op.toNat * 2 ^ 26 + rs.toNat * 2 ^ 21 + rt.toNat * 2 ^ 16 + rd.toNat * 2 ^ 11 + sa.toNat * 2 ^ 6 + fn.toNat) ∧
  (∀ (op : BitVec 6) (rs rt : Reg) (imm : Imm16), (encodeI op rs rt imm).toNat =
    op.toNat * 2 ^ 26 + rs.toNat * 2 ^ 21 + rt.toNat * 2 ^ 16 + imm.toNat) ∧
  (∀ code : SysCode, (encodeSys code).toNat = code.toNat * 2 ^ 6 + 0x0C)

/-- R74: a word with the opcode and function of an instruction but a must-be-zero field that is not zero is
Undecodable: bits 10..6 of the formats R3 and R3-SPECIAL2, bits 25..21 of SH, bits 15..6 of MD. -/
def Obligations.MustBeZeroFieldsAreRequired : Prop :=
  ∀ w : Word,
    (w.extractLsb' 26 6 = 0b000000#6 →
      w.extractLsb' 0 6 ∈ [0x20#6, 0x21#6, 0x22#6, 0x23#6, 0x24#6, 0x25#6, 0x26#6, 0x27#6, 0x2A#6, 0x2B#6] →
      w.extractLsb' 6 5 ≠ 0#5 → decode w = .error .undecodable) ∧
    (w.extractLsb' 26 6 = 0b011100#6 → w.extractLsb' 0 6 = 0x02#6 → w.extractLsb' 6 5 ≠ 0#5 →
      decode w = .error .undecodable) ∧
    (w.extractLsb' 26 6 = 0b000000#6 → w.extractLsb' 0 6 ∈ [0x00#6, 0x02#6, 0x03#6] → w.extractLsb' 21 5 ≠ 0#5 →
      decode w = .error .undecodable) ∧
    (w.extractLsb' 26 6 = 0b000000#6 → w.extractLsb' 0 6 ∈ [0x18#6, 0x19#6, 0x1A#6, 0x1B#6] →
      w.extractLsb' 6 10 ≠ 0#10 → decode w = .error .undecodable)

/-- R76: the SRL word with bit 21 set is not SRL, it is Undecodable. -/
def Obligations.SrlWithBit21IsUndecodable : Prop :=
  ∀ w : Word, w.extractLsb' 26 6 = 0b000000#6 → w.extractLsb' 0 6 = 0b000010#6 → w.extractLsb' 22 4 = 0#4 →
    w.getLsbD 21 = true → decode w = .error .undecodable

/-- R75: every major opcode not in R70, every SPECIAL or SPECIAL2 function not in R71 or R72 and every word that fails a
must-be-zero field (R74) is Undecodable; at the pc such a word ends the run with `Refused(undecodable)` and no register
changes. -/
def Obligations.UndecodableWordsEndTheRunRefused : Prop :=
  (∀ w : Word,
    (w.extractLsb' 26 6 ∉ [0x00#6, 0x08#6, 0x09#6, 0x0A#6, 0x0B#6, 0x0C#6, 0x0D#6, 0x0E#6, 0x1C#6] →
      decode w = .error .undecodable) ∧
    (w.extractLsb' 26 6 = 0x00#6 →
      w.extractLsb' 0 6 ∉ [0x00#6, 0x02#6, 0x03#6, 0x0C#6, 0x18#6, 0x19#6, 0x1A#6, 0x1B#6, 0x20#6, 0x21#6, 0x22#6,
        0x23#6, 0x24#6, 0x25#6, 0x26#6, 0x27#6, 0x2A#6, 0x2B#6] → decode w = .error .undecodable) ∧
    (w.extractLsb' 26 6 = 0x1C#6 → w.extractLsb' 0 6 ≠ 0x02#6 → decode w = .error .undecodable)) ∧
  Obligations.MustBeZeroFieldsAreRequired ∧
  (∀ (s : State) (w : Word), s.status = .running → s.fetch = some w → decode w = .error .undecodable →
    step s = .next { s with status := .refused .undecodable })

/-- R67, R68: the integers the two immediate forms denote. -/
def Obligations.ImmediatesDenoteTheseIntegers : Prop :=
  ∀ imm : Imm16,
    (∀ k, k < 32 → (simm imm).getLsbD k = if k < 16 then imm.getLsbD k else imm.getLsbD 15) ∧
    (-32768 ≤ (simm imm).toInt ∧ (simm imm).toInt ≤ 32767) ∧
    ((simm imm).toNat ≤ 32767 ∨ 2 ^ 32 - 32768 ≤ (simm imm).toNat) ∧
    (∀ k, (zimm imm).getLsbD k = if k < 16 then imm.getLsbD k else false) ∧ (zimm imm).toNat ≤ 65535 ∧
    (zimm imm).toInt = imm.toNat

/-! ### Add and subtract -/

/-- R100: the 33-bit test says exactly that the exact integer is out of the signed 32-bit range, and the result is that
integer modulo 2^32; without overflow it is the integer itself. -/
def Obligations.OverflowTestIsExactRange : Prop :=
  ∀ a b : Word,
    (overflows (addTemp a b) = true ↔ ¬ InSigned32 (a.toInt + b.toInt)) ∧
    (overflows (subTemp a b) = true ↔ ¬ InSigned32 (a.toInt - b.toInt)) ∧
    tempResult (addTemp a b) = BitVec.ofInt 32 (a.toInt + b.toInt) ∧
    tempResult (subTemp a b) = BitVec.ofInt 32 (a.toInt - b.toInt) ∧
    (overflows (addTemp a b) = false → (tempResult (addTemp a b)).toInt = a.toInt + b.toInt) ∧
    (overflows (subTemp a b) = false → (tempResult (subTemp a b)).toInt = a.toInt - b.toInt)

/-- R101. ADD: its words; the exact sum where it fits, nothing else changed; else Integer Overflow with the destination
not modified, also where rd is 0. -/
def Obligations.AddWritesExactSumOrRaises : Prop :=
  (∀ w : Word, w &&& 0xFC0007FF#32 = 0x00000020#32 →
    decode w = .ok (.add (w.extractLsb' 11 5) (w.extractLsb' 21 5) (w.extractLsb' 16 5))) ∧
  ∀ (rd rs rt : Reg) (s : State),
    (s.pc ≠ 0xFFFFFFFC#32 → InSigned32 ((s.readReg rs).toInt + (s.readReg rt).toInt) →
      ∃ v t, exec (.add rd rs rt) s = .next t ∧ v.toInt = (s.readReg rs).toInt + (s.readReg rt).toInt ∧
        OnlyReg s t rd v) ∧
    (¬ InSigned32 ((s.readReg rs).toInt + (s.readReg rt).toInt) →
      ∃ t, exec (.add rd rs rt) s = .next t ∧ Raised s t .integerOverflow)

/-- R102. ADDI: as ADD, with the sign-extended immediate, to rt. -/
def Obligations.AddiWritesExactSumOrRaises : Prop :=
  (∀ w : Word, w &&& 0xFC000000#32 = 0x20000000#32 →
    decode w = .ok (.addi (w.extractLsb' 16 5) (w.extractLsb' 21 5) (w.extractLsb' 0 16))) ∧
  ∀ (rt rs : Reg) (imm : Imm16) (s : State),
    (s.pc ≠ 0xFFFFFFFC#32 → InSigned32 ((s.readReg rs).toInt + imm.toInt) →
      ∃ v t, exec (.addi rt rs imm) s = .next t ∧ v.toInt = (s.readReg rs).toInt + imm.toInt ∧ OnlyReg s t rt v) ∧
    (¬ InSigned32 ((s.readReg rs).toInt + imm.toInt) →
      ∃ t, exec (.addi rt rs imm) s = .next t ∧ Raised s t .integerOverflow)

/-- R103. ADDIU: the sum with the sign-extended immediate modulo 2^32, never trapping. -/
def Obligations.AddiuWritesSumModulo : Prop :=
  (∀ w : Word, w &&& 0xFC000000#32 = 0x24000000#32 →
    decode w = .ok (.addiu (w.extractLsb' 16 5) (w.extractLsb' 21 5) (w.extractLsb' 0 16))) ∧
  ∀ (rt rs : Reg) (imm : Imm16) (s : State), s.pc ≠ 0xFFFFFFFC#32 →
    ∃ v t, exec (.addiu rt rs imm) s = .next t ∧ (v.toNat : Int) = ((s.readReg rs).toInt + imm.toInt) % 2 ^ 32 ∧
      OnlyReg s t rt v

/-- R104. ADDU: the sum modulo 2^32, never trapping. -/
def Obligations.AdduWritesSumModulo : Prop :=
  (∀ w : Word, w &&& 0xFC0007FF#32 = 0x00000021#32 →
    decode w = .ok (.addu (w.extractLsb' 11 5) (w.extractLsb' 21 5) (w.extractLsb' 16 5))) ∧
  ∀ (rd rs rt : Reg) (s : State), s.pc ≠ 0xFFFFFFFC#32 →
    ∃ v t, exec (.addu rd rs rt) s = .next t ∧ v.toNat = ((s.readReg rs).toNat + (s.readReg rt).toNat) % 2 ^ 32 ∧
      OnlyReg s t rd v

/-- R105. SUB: the exact difference where it fits, else Integer Overflow with the destination not modified. -/
def Obligations.SubWritesExactDifferenceOrRaises : Prop :=
  (∀ w : Word, w &&& 0xFC0007FF#32 = 0x00000022#32 →
    decode w = .ok (.sub (w.extractLsb' 11 5) (w.extractLsb' 21 5) (w.extractLsb' 16 5))) ∧
  ∀ (rd rs rt : Reg) (s : State),
    (s.pc ≠ 0xFFFFFFFC#32 → InSigned32 ((s.readReg rs).toInt - (s.readReg rt).toInt) →
      ∃ v t, exec (.sub rd rs rt) s = .next t ∧ v.toInt = (s.readReg rs).toInt - (s.readReg rt).toInt ∧
        OnlyReg s t rd v) ∧
    (¬ InSigned32 ((s.readReg rs).toInt - (s.readReg rt).toInt) →
      ∃ t, exec (.sub rd rs rt) s = .next t ∧ Raised s t .integerOverflow)

/-- R106. SUBU: the difference modulo 2^32, never trapping. -/
def Obligations.SubuWritesDifferenceModulo : Prop :=
  (∀ w : Word, w &&& 0xFC0007FF#32 = 0x00000023#32 →
    decode w = .ok (.subu (w.extractLsb' 11 5) (w.extractLsb' 21 5) (w.extractLsb' 16 5))) ∧
  ∀ (rd rs rt : Reg) (s : State), s.pc ≠ 0xFFFFFFFC#32 →
    ∃ v t, exec (.subu rd rs rt) s = .next t ∧
      (v.toNat : Int) = ((s.readReg rs).toNat - (s.readReg rt).toNat : Int) % 2 ^ 32 ∧ OnlyReg s t rd v

/-- R107, items 2 and 5: where ADD, ADDI or SUB does not raise it does exactly what ADDU, ADDIU or SUBU does; SUBU is
ADDU of the complement plus one, while SUB of 0 and 0x80000000 raises. -/
def Obligations.NonRaisingFormsAgreeWithUnsignedForms : Prop :=
  (∀ (rd rs rt : Reg) (s : State), (Instr.add rd rs rt).raises s = none →
    exec (.add rd rs rt) s = exec (.addu rd rs rt) s) ∧
  (∀ (rt rs : Reg) (imm : Imm16) (s : State), (Instr.addi rt rs imm).raises s = none →
    exec (.addi rt rs imm) s = exec (.addiu rt rs imm) s) ∧
  (∀ (rd rs rt : Reg) (s : State), (Instr.sub rd rs rt).raises s = none →
    exec (.sub rd rs rt) s = exec (.subu rd rs rt) s) ∧
  (∀ (rd rs rt : Reg) (s : State), s.pc ≠ 0xFFFFFFFC#32 → rd ≠ 0#5 →
    ∃ t, exec (.subu rd rs rt) s = .next t ∧ t.readReg rd = s.readReg rs + (~~~(s.readReg rt) + 1#32)) ∧
  (∀ (rd rt : Reg) (s : State), s.readReg rt = 0x80000000#32 →
    ∃ t, exec (.sub rd 0#5 rt) s = .next t ∧ Raised s t .integerOverflow)

/-! ### Logical -/

/-- R120, R122, R123, R125. AND, NOR, OR, XOR: their words, and each bit of the result from the bits of the operands at
its position. -/
def Obligations.LogicalRegisterFormsWorkBitByBit : Prop :=
  (∀ w : Word,
    (w &&& 0xFC0007FF#32 = 0x00000024#32 →
      decode w = .ok (.and (w.extractLsb' 11 5) (w.extractLsb' 21 5) (w.extractLsb' 16 5))) ∧
    (w &&& 0xFC0007FF#32 = 0x00000025#32 →
      decode w = .ok (.or (w.extractLsb' 11 5) (w.extractLsb' 21 5) (w.extractLsb' 16 5))) ∧
    (w &&& 0xFC0007FF#32 = 0x00000026#32 →
      decode w = .ok (.xor (w.extractLsb' 11 5) (w.extractLsb' 21 5) (w.extractLsb' 16 5))) ∧
    (w &&& 0xFC0007FF#32 = 0x00000027#32 →
      decode w = .ok (.nor (w.extractLsb' 11 5) (w.extractLsb' 21 5) (w.extractLsb' 16 5)))) ∧
  ∀ (rd rs rt : Reg) (s : State), s.pc ≠ 0xFFFFFFFC#32 →
    (∃ v t, exec (.and rd rs rt) s = .next t ∧ OnlyReg s t rd v ∧
      ∀ k, k < 32 → v.getLsbD k = ((s.readReg rs).getLsbD k && (s.readReg rt).getLsbD k)) ∧
    (∃ v t, exec (.or rd rs rt) s = .next t ∧ OnlyReg s t rd v ∧
      ∀ k, k < 32 → v.getLsbD k = ((s.readReg rs).getLsbD k || (s.readReg rt).getLsbD k)) ∧
    (∃ v t, exec (.xor rd rs rt) s = .next t ∧ OnlyReg s t rd v ∧
      ∀ k, k < 32 → v.getLsbD k = ((s.readReg rs).getLsbD k != (s.readReg rt).getLsbD k)) ∧
    (∃ v t, exec (.nor rd rs rt) s = .next t ∧ OnlyReg s t rd v ∧
      ∀ k, k < 32 → v.getLsbD k = !((s.readReg rs).getLsbD k || (s.readReg rt).getLsbD k))

/-- R121, R124, R126. ANDI, ORI, XORI: their words, and each bit of the result, the immediate zero-extended: bits 31..16
are 0 for ANDI and those of the source for ORI and XORI. -/
def Obligations.LogicalImmediateFormsZeroExtend : Prop :=
  (∀ w : Word,
    (w &&& 0xFC000000#32 = 0x30000000#32 →
      decode w = .ok (.andi (w.extractLsb' 16 5) (w.extractLsb' 21 5) (w.extractLsb' 0 16))) ∧
    (w &&& 0xFC000000#32 = 0x34000000#32 →
      decode w = .ok (.ori (w.extractLsb' 16 5) (w.extractLsb' 21 5) (w.extractLsb' 0 16))) ∧
    (w &&& 0xFC000000#32 = 0x38000000#32 →
      decode w = .ok (.xori (w.extractLsb' 16 5) (w.extractLsb' 21 5) (w.extractLsb' 0 16)))) ∧
  ∀ (rt rs : Reg) (imm : Imm16) (s : State), s.pc ≠ 0xFFFFFFFC#32 →
    (∃ v t, exec (.andi rt rs imm) s = .next t ∧ OnlyReg s t rt v ∧
      ∀ k, k < 32 → v.getLsbD k = if k < 16 then (s.readReg rs).getLsbD k && imm.getLsbD k else false) ∧
    (∃ v t, exec (.ori rt rs imm) s = .next t ∧ OnlyReg s t rt v ∧
      ∀ k, k < 32 → v.getLsbD k =
        if k < 16 then (s.readReg rs).getLsbD k || imm.getLsbD k else (s.readReg rs).getLsbD k) ∧
    (∃ v t, exec (.xori rt rs imm) s = .next t ∧ OnlyReg s t rt v ∧
      ∀ k, k < 32 → v.getLsbD k =
        if k < 16 then (s.readReg rs).getLsbD k != imm.getLsbD k else (s.readReg rs).getLsbD k)

/-- R107 item 4, R127, R149 item 5: these nine instructions are commutative in rs and rt, in whether they raise and in
the register, or the HI and LO, they compute. That MUL's drawn HI and LO are equal under the swap is no rule of the spec: it
is the model's choice that the same count of draws gives the same free value (entry 5 of the log). -/
def Obligations.CommutativeInRsAndRt : Prop :=
  ∀ (rd rs rt : Reg) (s : State),
    exec (.add rd rs rt) s = exec (.add rd rt rs) s ∧ exec (.addu rd rs rt) s = exec (.addu rd rt rs) s ∧
    exec (.and rd rs rt) s = exec (.and rd rt rs) s ∧ exec (.or rd rs rt) s = exec (.or rd rt rs) s ∧
    exec (.xor rd rs rt) s = exec (.xor rd rt rs) s ∧ exec (.nor rd rs rt) s = exec (.nor rd rt rs) s ∧
    exec (.mult rs rt) s = exec (.mult rt rs) s ∧ exec (.multu rs rt) s = exec (.multu rt rs) s ∧
    exec (.mul rd rs rt) s = exec (.mul rd rt rs) s

/-! ### Multiply and divide -/

/-- R141, R142, R143, R148. DIV: its words; a zero divisor draws HI and LO; -2^31 by -1 gives the parameter
`div_overflow`, by default two draws; else LO is the quotient rounded toward zero and HI the remainder, zero or of the
dividend's sign. It never raises and writes no general register. -/
def Obligations.DivWritesQuotientAndRemainder : Prop :=
  (∀ w : Word, w &&& 0xFC00FFFF#32 = 0x0000001A#32 →
    decode w = .ok (.div (w.extractLsb' 21 5) (w.extractLsb' 16 5))) ∧
  ∀ (rs rt : Reg) (s : State), s.pc ≠ 0xFFFFFFFC#32 →
    let n := (s.readReg rs).toInt
    let d := (s.readReg rt).toInt
    (d = 0 → ∃ t, exec (.div rs rt) s = .next t ∧ SameRegs s t ∧ DrewHiLo s t ∧ Completed s t) ∧
    (n = -2147483648 → d = -1 → s.params.divOverflow = none →
      ∃ t, exec (.div rs rt) s = .next t ∧ SameRegs s t ∧ DrewHiLo s t ∧ Completed s t) ∧
    (∀ hi lo, n = -2147483648 → d = -1 → s.params.divOverflow = some (hi, lo) →
      ∃ t, exec (.div rs rt) s = .next t ∧ OnlyHiLo s t hi lo) ∧
    (d ≠ 0 → ¬ (n = -2147483648 ∧ d = -1) →
      ∃ t, exec (.div rs rt) s = .next t ∧ OnlyHiLo s t t.hi t.lo ∧
        t.lo.toInt = n.sign * d.sign * ((n.natAbs / d.natAbs : Nat) : Int) ∧ n = t.lo.toInt * d + t.hi.toInt ∧
        t.hi.toInt.natAbs < d.natAbs ∧ (t.hi.toInt = 0 ∨ t.hi.toInt.sign = n.sign))

/-- R144, R148. DIVU: its words; a zero divisor draws HI and LO; else quotient and remainder of the unsigned values. -/
def Obligations.DivuWritesQuotientAndRemainder : Prop :=
  (∀ w : Word, w &&& 0xFC00FFFF#32 = 0x0000001B#32 →
    decode w = .ok (.divu (w.extractLsb' 21 5) (w.extractLsb' 16 5))) ∧
  ∀ (rs rt : Reg) (s : State), s.pc ≠ 0xFFFFFFFC#32 →
    let n := (s.readReg rs).toNat
    let d := (s.readReg rt).toNat
    (d = 0 → ∃ t, exec (.divu rs rt) s = .next t ∧ SameRegs s t ∧ DrewHiLo s t ∧ Completed s t) ∧
    (d ≠ 0 → ∃ t, exec (.divu rs rt) s = .next t ∧ OnlyHiLo s t t.hi t.lo ∧
      t.lo.toNat = n / d ∧ t.hi.toNat = n % d)

/-- R148: with a zero divisor DIV and DIVU draw HI and LO, change no general register, raise nothing, and the run goes
on at the next instruction. That the counter `draws` advances by two is no rule of the spec: it is the model's choice of
form for a draw (entry 5 of the log). -/
def Obligations.ZeroDivisorDrawsHiAndLo : Prop :=
  ∀ (i : Instr) (rs rt : Reg) (s : State), i = .div rs rt ∨ i = .divu rs rt → s.readReg rt = 0#32 →
    i.raises s = none ∧ (s.pc ≠ 0xFFFFFFFC#32 →
      ∃ t, exec i s = .next t ∧ SameRegs s t ∧ DrewHiLo s t ∧ t.draws = s.draws + 2 ∧ Completed s t)

/-- R145. MUL: its words; the low 32 bits of the product to rd, HI and LO drawn, also where rd is 0. -/
def Obligations.MulWritesLowWordAndDrawsHiLo : Prop :=
  (∀ w : Word, w &&& 0xFC0007FF#32 = 0x70000002#32 →
    decode w = .ok (.mul (w.extractLsb' 11 5) (w.extractLsb' 21 5) (w.extractLsb' 16 5))) ∧
  ∀ (rd rs rt : Reg) (s : State), s.pc ≠ 0xFFFFFFFC#32 →
    ∃ v t, exec (.mul rd rs rt) s = .next t ∧ RegTakes s t rd v ∧ DrewHiLo s t ∧ Completed s t ∧
      (v.toNat : Int) = ((s.readReg rs).toInt * (s.readReg rt).toInt) % 2 ^ 32 ∧
      v.toNat = ((s.readReg rs).toNat * (s.readReg rt).toNat) % 2 ^ 32

/-- R146, R147. MULT, MULTU: their words; HI and LO together hold the exact 64-bit product. -/
def Obligations.MultAndMultuWriteExactProduct : Prop :=
  (∀ w : Word,
    (w &&& 0xFC00FFFF#32 = 0x00000018#32 → decode w = .ok (.mult (w.extractLsb' 21 5) (w.extractLsb' 16 5))) ∧
    (w &&& 0xFC00FFFF#32 = 0x00000019#32 → decode w = .ok (.multu (w.extractLsb' 21 5) (w.extractLsb' 16 5)))) ∧
  ∀ (rs rt : Reg) (s : State), s.pc ≠ 0xFFFFFFFC#32 →
    (∃ t, exec (.mult rs rt) s = .next t ∧ OnlyHiLo s t t.hi t.lo ∧
      (t.hi ++ t.lo).toInt = (s.readReg rs).toInt * (s.readReg rt).toInt) ∧
    (∃ t, exec (.multu rs rt) s = .next t ∧ OnlyHiLo s t t.hi t.lo ∧
      (t.hi ++ t.lo).toNat = (s.readReg rs).toNat * (s.readReg rt).toNat)

/-- R149, item 4: the register MUL writes holds the LO that MULT and MULTU give on the same operands. -/
def Obligations.MulAgreesWithLoOfMultAndMultu : Prop :=
  ∀ (rd rs rt : Reg) (s : State), s.pc ≠ 0xFFFFFFFC#32 → rd ≠ 0#5 →
    ∃ t u v, exec (.mul rd rs rt) s = .next t ∧ exec (.mult rs rt) s = .next u ∧ exec (.multu rs rt) s = .next v ∧
      t.readReg rd = u.lo ∧ t.readReg rd = v.lo

/-! ### Shifts and the idioms -/

/-- R162. SLL: its words; the operand times 2^sa modulo 2^32. -/
def Obligations.SllMultipliesByPowerOfTwo : Prop :=
  (∀ w : Word, w &&& 0xFFE0003F#32 = 0x00000000#32 →
    decode w = .ok (.sll (w.extractLsb' 11 5) (w.extractLsb' 16 5) (w.extractLsb' 6 5))) ∧
  ∀ (rd rt : Reg) (sa : Shamt) (s : State), s.pc ≠ 0xFFFFFFFC#32 →
    ∃ v t, exec (.sll rd rt sa) s = .next t ∧ OnlyReg s t rd v ∧
      v.toNat = ((s.readReg rt).toNat * 2 ^ sa.toNat) % 2 ^ 32

/-- R163. SRA: its words; the signed operand divided by 2^sa, rounded toward minus infinity. -/
def Obligations.SraDividesSignedByPowerOfTwo : Prop :=
  (∀ w : Word, w &&& 0xFFE0003F#32 = 0x00000003#32 →
    decode w = .ok (.sra (w.extractLsb' 11 5) (w.extractLsb' 16 5) (w.extractLsb' 6 5))) ∧
  ∀ (rd rt : Reg) (sa : Shamt) (s : State), s.pc ≠ 0xFFFFFFFC#32 →
    ∃ v t, exec (.sra rd rt sa) s = .next t ∧ OnlyReg s t rd v ∧
      v.toInt = Int.fdiv (s.readReg rt).toInt (2 ^ sa.toNat)

/-- R164. SRL: its words; the unsigned operand divided by 2^sa. -/
def Obligations.SrlDividesUnsignedByPowerOfTwo : Prop :=
  (∀ w : Word, w &&& 0xFFE0003F#32 = 0x00000002#32 →
    decode w = .ok (.srl (w.extractLsb' 11 5) (w.extractLsb' 16 5) (w.extractLsb' 6 5))) ∧
  ∀ (rd rt : Reg) (sa : Shamt) (s : State), s.pc ≠ 0xFFFFFFFC#32 →
    ∃ v t, exec (.srl rd rt sa) s = .next t ∧ OnlyReg s t rd v ∧ v.toNat = (s.readReg rt).toNat / 2 ^ sa.toNat

/-- R80, R160, R161. NOP and SSNOP: the words 0x00000000 and 0x00000040, which the decoder reads as SLL r0, r0, 0 and
SLL r0, r0, 1; they do what these do: only the pc changes. -/
def Obligations.NopAndSsnopChangeOnlyThePc : Prop :=
  encode .nop = 0x00000000#32 ∧ encode .ssnop = 0x00000040#32 ∧
  decode 0x00000000#32 = .ok (.sll 0#5 0#5 0#5) ∧ decode 0x00000040#32 = .ok (.sll 0#5 0#5 1#5) ∧
  ∀ s : State, exec .nop s = exec (.sll 0#5 0#5 0#5) s ∧ exec .ssnop s = exec (.sll 0#5 0#5 1#5) s ∧
    (s.pc ≠ 0xFFFFFFFC#32 →
      exec .nop s = .next { s with pc := s.pc + 4#32 } ∧ exec .ssnop s = .next { s with pc := s.pc + 4#32 })

/-! ### Set on less than -/

/-- R180, R183. SLT, SLTU: their words; 1 where the first operand is less, signed or unsigned, else 0. -/
def Obligations.SltAndSltuRecordComparison : Prop :=
  (∀ w : Word,
    (w &&& 0xFC0007FF#32 = 0x0000002A#32 →
      decode w = .ok (.slt (w.extractLsb' 11 5) (w.extractLsb' 21 5) (w.extractLsb' 16 5))) ∧
    (w &&& 0xFC0007FF#32 = 0x0000002B#32 →
      decode w = .ok (.sltu (w.extractLsb' 11 5) (w.extractLsb' 21 5) (w.extractLsb' 16 5)))) ∧
  ∀ (rd rs rt : Reg) (s : State), s.pc ≠ 0xFFFFFFFC#32 →
    (∃ t, exec (.slt rd rs rt) s = .next t ∧
      OnlyReg s t rd (if (s.readReg rs).toInt < (s.readReg rt).toInt then 0x00000001#32 else 0x00000000#32)) ∧
    (∃ t, exec (.sltu rd rs rt) s = .next t ∧
      OnlyReg s t rd (if (s.readReg rs).toNat < (s.readReg rt).toNat then 0x00000001#32 else 0x00000000#32))

/-- R181, R182. SLTI, SLTIU: their words; both sign-extend the immediate; SLTIU then compares the 32-bit patterns as
unsigned, so its immediate is 0 .. 32767 or 2^32-32768 .. 2^32-1. -/
def Obligations.SltiAndSltiuRecordComparison : Prop :=
  (∀ w : Word,
    (w &&& 0xFC000000#32 = 0x28000000#32 →
      decode w = .ok (.slti (w.extractLsb' 16 5) (w.extractLsb' 21 5) (w.extractLsb' 0 16))) ∧
    (w &&& 0xFC000000#32 = 0x2C000000#32 →
      decode w = .ok (.sltiu (w.extractLsb' 16 5) (w.extractLsb' 21 5) (w.extractLsb' 0 16)))) ∧
  ∀ (rt rs : Reg) (imm : Imm16) (s : State), s.pc ≠ 0xFFFFFFFC#32 →
    (∃ t, exec (.slti rt rs imm) s = .next t ∧
      OnlyReg s t rt (if (s.readReg rs).toInt < imm.toInt then 0x00000001#32 else 0x00000000#32)) ∧
    (∃ t, exec (.sltiu rt rs imm) s = .next t ∧
      OnlyReg s t rt (if ((s.readReg rs).toNat : Int) < imm.toInt % 2 ^ 32 then 0x00000001#32 else 0x00000000#32))

/-- R184: SLT and SLTU agree exactly where bit 31 of both operands agrees; SLT either way round is 0 exactly on equal
operands. -/
def Obligations.SltAndSltuAgreeOnEqualSigns : Prop :=
  ∀ (rd rs rt : Reg) (s : State), s.pc ≠ 0xFFFFFFFC#32 → rd ≠ 0#5 →
    ∃ t u v, exec (.slt rd rs rt) s = .next t ∧ exec (.sltu rd rs rt) s = .next u ∧
      exec (.slt rd rt rs) s = .next v ∧ (t.readReg rd = 0#32 ∨ t.readReg rd = 1#32) ∧
      (t.readReg rd = u.readReg rd ↔ (s.readReg rs).getLsbD 31 = (s.readReg rt).getLsbD 31) ∧
      (t.readReg rd = 0#32 ∧ v.readReg rd = 0#32 ↔ s.readReg rs = s.readReg rt)

/-! ### System call and exceptions -/

/-- R200. SYSCALL: its words, every value of `code` decoding; it raises System Call in every state; where the run ends
there, the final state names its `code`. -/
def Obligations.SyscallAlwaysRaises : Prop :=
  (∀ w : Word, w &&& 0xFC00003F#32 = 0x0000000C#32 → decode w = .ok (.syscall (w.extractLsb' 6 20))) ∧
  (∀ (code : SysCode) (s : State), ∃ t, exec (.syscall code) s = .next t ∧ Raised s t .systemCall) ∧
  (∀ (code : SysCode) (s : State) (w : Word), s.status = .running → s.params.trapEntry = .endRun →
    s.fetch = some w → decode w = .ok (.syscall code) → ∃ t, step s = .next t ∧ t.trapCode = some code)

/-- R210: ADD, ADDI and SUB raise Integer Overflow exactly where the exact result does not fit, SYSCALL raises System Call
always, and no other instruction raises anything: `Instr.raises` is that table. -/
def Obligations.InstructionsRaiseExactlyByTheTable : Prop :=
  ∀ (i : Instr) (s : State),
    (∀ c, i.raises s = some c → ∃ t, exec i s = .next t ∧ Raised s t c) ∧
    (i.raises s = none → s.status = .running →
      ∃ t, exec i s = .next t ∧ t.cp0 = s.cp0 ∧ ∀ c a, t.status ≠ .trapped c a)

/-- R212: with the default of `trap_entry`, a step that ends `Trapped` names the pc and leaves the state otherwise exactly
as it was before the instruction; a `Trapped` state has no next step. -/
def Obligations.TrappedStateIsStateBeforeInstruction : Prop :=
  ∀ (s t : State) (c : ExcCause) (a : Word), s.status = .running → s.params.trapEntry = .endRun →
    step s = .next t → t.status = .trapped c a →
    t = { s with status := .trapped c s.pc } ∧ ∀ u, step t ≠ .next u

/-- With `trap_entry` a handler, the model's choice of what R214 and R215 record as general knowledge (entries 8 to 10 of
the log): either exception goes to the vector with the run going on, CP0 recording it; with EXL set EPC stays; a return
resumes at the raising instruction. -/
def Obligations.HandlerEntryAndReturn : Prop :=
  ∀ (i : Instr) (s : State) (c : ExcCause), s.params.trapEntry = .handler → i.raises s = some c →
    ∃ t, exec i s = .next t ∧ t.status = s.status ∧ Raised s t c ∧ EnteredHandler s.cp0 t.cp0 c s.pc ∧
      t.pc = (if s.cp0.statusBev then 0xBFC00380#32 else s.cp0.ebase + 0x180#32) ∧
      (s.cp0.statusExl = false → t.returnFromException.pc = s.pc ∧ t.returnFromException.cp0.statusExl = false ∧
        SameRegs s t.returnFromException)

/-- R27: an instruction that does not raise advances the pc by 4; a raising one leaves it where it is (with the default
of `trap_entry`). -/
def Obligations.PcAdvancesUnlessRaising : Prop :=
  ∀ (i : Instr) (s : State),
    (i.raises s = none → s.pc ≠ 0xFFFFFFFC#32 →
      ∃ t, exec i s = .next t ∧ t.pc = s.pc + 4#32 ∧ t.status = s.status) ∧
    (∀ c, i.raises s = some c → s.params.trapEntry = .endRun → ∃ t, exec i s = .next t ∧ t.pc = s.pc)

/-- R28: at 0xFFFF_FFFC an instruction that does not raise makes none of its writes and the run is refused; one that
raises ends the run as Trapped in the ordinary way. -/
def Obligations.PcWrapIsRefused : Prop :=
  ∀ (i : Instr) (s : State), s.pc = 0xFFFFFFFC#32 →
    (i.raises s = none → exec i s = .next { s with status := .refused .pcWrap }) ∧
    (∀ c, i.raises s = some c → s.params.trapEntry = .endRun →
      exec i s = .next { s with status := .trapped c 0xFFFFFFFC#32 })

/-- R216: the order of the tests of one step: fetch, decode, raise, wrap, write. -/
def Obligations.StepTestsInOrder : Prop :=
  ∀ s : State, s.status = .running →
    (s.fetch = none → step s = .next { s with status := .refused .fetchOutsideProgram }) ∧
    (∀ w, s.fetch = some w → (∀ i, decode w ≠ .ok i) → step s = .next { s with status := .refused .undecodable }) ∧
    (∀ w i c, s.fetch = some w → decode w = .ok i → i.raises s = some c → ∃ t, step s = .next t ∧ Raised s t c) ∧
    (∀ w i, s.fetch = some w → decode w = .ok i → i.raises s = none → s.pc = 0xFFFFFFFC#32 →
      step s = .next { s with status := .refused .pcWrap }) ∧
    (∀ w i, s.fetch = some w → decode w = .ok i → i.raises s = none → s.pc ≠ 0xFFFFFFFC#32 →
      ∃ t, step s = .next t ∧ Completed s t)

/-- R33: a state has a next step exactly where its status is Running. -/
def Obligations.OnlyRunningStatesStep : Prop :=
  ∀ s : State, (∃ t, step s = .next t) ↔ s.status = .running

/-! ### State, memory and launch -/

/-- R21: register 0 reads 0 and a write to it is discarded; an instruction with destination register 0 changes no
register, and still executes in full: ADD, ADDI and SUB still raise, MUL still draws HI and LO. -/
def Obligations.RegisterZeroReadsZeroAndDiscardsWrites : Prop :=
  (∀ (s : State) (v : Word), s.readReg 0#5 = 0#32 ∧ s.writeReg 0#5 v = s) ∧
  (∀ (i : Instr) (s : State), i.writes = some 0#5 → ∃ t, exec i s = .next t ∧ SameRegs s t) ∧
  (∀ (rs rt : Reg) (imm : Imm16) (s : State),
    (¬ InSigned32 ((s.readReg rs).toInt + (s.readReg rt).toInt) →
      ∃ t, exec (.add 0#5 rs rt) s = .next t ∧ Raised s t .integerOverflow) ∧
    (¬ InSigned32 ((s.readReg rs).toInt + imm.toInt) →
      ∃ t, exec (.addi 0#5 rs imm) s = .next t ∧ Raised s t .integerOverflow) ∧
    (¬ InSigned32 ((s.readReg rs).toInt - (s.readReg rt).toInt) →
      ∃ t, exec (.sub 0#5 rs rt) s = .next t ∧ Raised s t .integerOverflow) ∧
    (s.pc ≠ 0xFFFFFFFC#32 → ∃ t, exec (.mul 0#5 rs rt) s = .next t ∧ DrewHiLo s t))

/-- R22: an instruction's effect depends on no general register but those of its row: from two states that differ in
other registers only, it leaves the same in every other part of the state, and the same value in its destination (or,
where it raises or is refused, each state's own). That HI and LO drawn after MUL or with a zero divisor are among what is
the same is no rule of the spec: it is the model's choice that the same count of draws gives the same free value (entry 5
of the log). -/
def Obligations.OnlySourceRegistersAreRead : Prop :=
  ∀ (i : Instr) (s : State) (gpr : Vector Word 31) (t : State),
    (∀ r ∈ i.reads, State.readReg { s with gpr := gpr } r = s.readReg r) → exec i s = .next t →
    ∃ u, exec i { s with gpr := gpr } = .next u ∧ { u with gpr := t.gpr } = t ∧
      (∀ r, i.writes = some r → u.readReg r = t.readReg r ∨
        (t.readReg r = s.readReg r ∧ u.readReg r = State.readReg { s with gpr := gpr } r)) ∧
      (∀ r, i.writes ≠ some r → t.readReg r = s.readReg r ∧ u.readReg r = State.readReg { s with gpr := gpr } r)

/-- R25, R149 item 7: DIV, DIVU, MULT, MULTU and MUL alone change HI or LO, and no instruction reads them: whatever they
hold, an instruction leaves the same in every other part of the state, and where it is one of the five and its writes are
made (R28) the same in HI and LO. That this holds of drawn values too is no rule of the spec: it is the model's choice that
the same count of draws gives the same free value (entry 5 of the log). -/
def Obligations.HiAndLoAreNeverRead : Prop :=
  ∀ (i : Instr) (s t : State), exec i s = .next t →
    (i.writesHiLo = false → t.hi = s.hi ∧ t.lo = s.lo) ∧
    ∀ hi lo, ∃ u, exec i { s with hi := hi, lo := lo } = .next u ∧ { u with hi := t.hi, lo := t.lo } = t ∧
      (i.writesHiLo = true → s.pc ≠ 0xFFFFFFFC#32 → u.hi = t.hi ∧ u.lo = t.lo)

/-- Frame of the instructions that write one general register and neither HI nor LO (R22, R25, R27, R212): every
register but the destination, HI, LO and every byte of memory are unchanged; CP0 too unless the instruction raises. -/
def Obligations.RegisterInstructionsFrame : Prop :=
  ∀ (i : Instr) (s t : State), i.writes ≠ none → i.writesHiLo = false → exec i s = .next t →
    (∀ r, i.writes ≠ some r → t.readReg r = s.readReg r) ∧ t.hi = s.hi ∧ t.lo = s.lo ∧ t.draws = s.draws ∧
    t.params = s.params ∧ (∀ a, t.mem.read a = s.mem.read a) ∧ (i.raises s = none → t.cp0 = s.cp0)

/-- Frame of DIV, DIVU, MULT, MULTU and MUL (R22, R25): every register but MUL's destination, CP0 and every byte of
memory are unchanged. -/
def Obligations.MultiplyDivideFrame : Prop :=
  ∀ (i : Instr) (s t : State), i.writesHiLo = true → exec i s = .next t →
    (∀ r, i.writes ≠ some r → t.readReg r = s.readReg r) ∧ t.params = s.params ∧ t.cp0 = s.cp0 ∧
    (∀ a, t.mem.read a = s.mem.read a) ∧ (s.status = .running → ∀ c a, t.status ≠ .trapped c a)

/-- R40, R52: no step changes the program text or a launch parameter. -/
def Obligations.ProgramTextNeverChanges : Prop :=
  ∀ s t : State, step s = .next t → t.mem = s.mem ∧ t.params = s.params

/-- R40, R41, R42: the program held as bytes is the map of words the spec speaks of: the fetch at the pc is the word the
map has there, in either byte order; outside its domain the run is refused and nothing else changes. -/
def Obligations.FetchReadsTheProgramMap : Prop :=
  ∀ (p : Program) (s : State), (∀ e ∈ p, Aligned e.1) → s.mem = Program.toMemory s.params.bigEndian p →
    s.status = .running →
    (∀ w, p.lookup s.pc = some w → s.fetch = some w) ∧
    (p.lookup s.pc = none → step s = .next { s with status := .refused .fetchOutsideProgram })

/-- R43: the byte order cannot affect the result of any instruction: an instruction placed at the pc in the one order or
the other leaves the same registers, HI, LO, pc, status and CP0. `withFetchWord` is the model's loader (entry 24 of the
log), and that drawn HI and LO are equal is no rule of the spec: it is the model's choice that the same count of draws
gives the same free value (entry 5). -/
def Obligations.ByteOrderIsUnobservable : Prop :=
  ∀ (s t : State) (nbits w : Nat) (bigEndian : Bool), Aligned s.pc → step (s.withFetchWord nbits w) = .next t →
    ∃ u, step (State.withFetchWord { s with params := { s.params with bigEndian := bigEndian } } nbits w) = .next u ∧
      u.gpr = t.gpr ∧ u.hi = t.hi ∧ u.lo = t.lo ∧ u.pc = t.pc ∧ u.status = t.status ∧ u.cp0 = t.cp0 ∧ u.draws = t.draws

/-- An instruction placed where the machine fetches next is the one the next step runs, and placing it keeps the
invariant (the model's loader, entry 24 of the log). -/
def Obligations.PlacedInstructionRunsNext : Prop :=
  ∀ (s : State) (nbits w : Nat) (i : Instr), s.Inv → s.status = .running → decodeTableWord nbits w = some i →
    (s.withFetchWord nbits w).Inv ∧ step (s.withFetchWord nbits w) = exec i (s.withFetchWord nbits w)

/-- Every step keeps the invariant. The spec says that the pc is a multiple of 4 (R26, R44) and that a Trapped state names
its pc (R212). The canonical form of the program text is the model's choice (entry 1 of the log); so are, with a handler,
the aligned pc at the vector and the aligned EPC and EBase (entries 8 and 30). -/
def Obligations.StepKeepsInvariant : Prop := ∀ s t : State, s.Inv → step s = .next t → t.Inv

/-- The invariant holds after reset. It rests on the model's reset values (entry 7 of the log) and on nothing being placed
(entries 1 and 24). -/
def Obligations.InvariantHoldsAtReset : Prop := State.reset.Inv

/-- The invariant holds at every launch from an aligned entry (R44, R240) of a program of aligned words. The canonical form
of the program text is the model's choice (entry 1 of the log), and EPC and EBase are aligned at a launch by the CP0 values
the model gives it (entries 7 and 31). -/
def Obligations.InvariantHoldsAtLaunch : Prop :=
  ∀ (p : Program) (entry : Word) (params : Params) (gpr : Vector Word 31) (hi lo : Word),
    (∀ e ∈ p, Aligned e.1) → Aligned entry → (State.launch p entry params gpr hi lo).Inv

/-- R240: the launch state: the program the fetch reads is the one given, the pc is the entry, register 0 zero, every
other register, HI and LO as given, Running where the entry is a multiple of 4, else `Refused(misaligned_entry)` with no
step. -/
def Obligations.LaunchStateIsAsGiven : Prop :=
  ∀ (p : Program) (entry : Word) (params : Params) (gpr : Vector Word 31) (hi lo : Word),
    let s := State.launch p entry params gpr hi lo
    ((∀ e ∈ p, Aligned e.1) → ∀ a : Word, s.mem.fetchWord s.params.bigEndian a.toNat = p.lookup a) ∧
    s.params = params ∧ s.pc = entry ∧ s.readReg 0#5 = 0#32 ∧ s.hi = hi ∧ s.lo = lo ∧
    (∀ k : Fin 31, s.readReg (BitVec.ofNat 5 (k.val + 1)) = gpr[k.val]) ∧
    (Aligned entry → s.status = .running) ∧
    (¬ Aligned entry → s.status = .refused .misalignedEntry ∧ ∀ t, step s ≠ .next t)

/-- R32, R6 and P7h of 95_test_vectors.md: after reset the machine is Running with register 0 zero and the spec's default
parameters, and, no program being placed, its first step is `Refused(fetch_outside_program)`. -/
def Obligations.ResetIsALaunchWithNoProgram : Prop :=
  State.reset.status = .running ∧ State.reset.readReg 0#5 = 0#32 ∧ State.reset.params.divOverflow = none ∧
  State.reset.params.trapEntry = .endRun ∧
  step State.reset = .next { State.reset with status := .refused .fetchOutsideProgram }

/-! ### Runs -/

/-- R246: every run ends. Each word of the program is executed at most once, and one more step finds the pc outside it:
after (bytes of program)/4 + 1 steps the status is no longer Running. (R246 says |program| steps; in this model the
refusal is a step of its own, R42; entry 25 of the log.) -/
def Obligations.EveryRunEnds : Prop :=
  ∀ s : State, s.params.trapEntry = .endRun → (runFor (s.mem.length / 4 + 1) s).status ≠ .running

/-- R212, R213, R246: a run that ended Trapped stopped at an instruction that raises that exception, at the address the
status names, the pc still there. -/
def Obligations.TrappedRunStoppedAtRaisingInstruction : Prop :=
  ∀ (s : State) (k : Nat) (c : ExcCause) (a : Word), s.status = .running → s.params.trapEntry = .endRun →
    (runFor k s).status = .trapped c a →
    (runFor k s).pc = a ∧ ∃ w i, (runFor k s).fetch = some w ∧ decode w = .ok i ∧ i.raises (runFor k s) = some c
end

