-- ==== Sys2Proof/Laws/State.lean ====
section
/-! SUPPORT. One lemma per field per update of the state, and the register laws: a read after a write, register 0. -/

namespace Sys2Proof.Machine

/-! ### Updates of other fields leave the general registers -/

@[simp] theorem readReg_setHiLo (s : State) (h l : Word) (r : Reg) : (s.setHiLo h l).readReg r = s.readReg r := rfl
@[simp] theorem readReg_drawLoHi (s : State) (r : Reg) : s.drawLoHi.readReg r = s.readReg r := rfl
@[simp] theorem readReg_drawHiLo (s : State) (r : Reg) : s.drawHiLo.readReg r = s.readReg r := rfl
@[simp] theorem readReg_refuse (s : State) (e : RefusedReason) (r : Reg) : (s.refuse e).readReg r = s.readReg r := rfl
@[simp] theorem readReg_setPc (s : State) (p : Word) (r : Reg) : (s.setPc p).readReg r = s.readReg r := rfl
@[simp] theorem readReg_withFetchWord (s : State) (n w : Nat) (r : Reg) :
    (s.withFetchWord n w).readReg r = s.readReg r := rfl
@[simp] theorem readReg_returnFromException (s : State) (r : Reg) :
    s.returnFromException.readReg r = s.readReg r := rfl

theorem readReg_congr {s t : State} (h : t.gpr = s.gpr) (r : Reg) : t.readReg r = s.readReg r := by
  simp only [State.readReg, h]

/-! ### Register 0, and a read after a write -/

@[simp] theorem readReg_zero (s : State) : s.readReg 0#5 = 0#32 := rfl

theorem writeReg_zero (s : State) (v : Word) : s.writeReg 0#5 v = s := rfl

theorem regIndex_inj {r d : Reg} (hr : r ≠ 0#5) (hd : d ≠ 0#5) (h : (regIndex r).val = (regIndex d).val) : r = d := by
  have nonzero : ∀ x : Reg, x ≠ 0#5 → x.toNat ≠ 0 := fun x hx h0 => hx (BitVec.eq_of_toNat_eq (by simpa using h0))
  have h1 := nonzero r hr
  have h2 := nonzero d hd
  simp only [regIndex] at h
  exact BitVec.eq_of_toNat_eq (by omega)

theorem readReg_writeReg (s : State) (d : Reg) (v : Word) (r : Reg) :
    (s.writeReg d v).readReg r = if r = d ∧ d ≠ 0#5 then v else s.readReg r := by
  by_cases hd : d = 0#5
  · simp [hd, State.writeReg]
  by_cases hr : r = 0#5
  · have h0 : ¬ 0#5 = d := fun h => hd h.symm
    simp [hr, h0]
  by_cases hrd : r = d
  · simp [hrd, hd, State.writeReg, State.readReg]
  · have hne : (regIndex d).val ≠ (regIndex r).val := fun h => hrd (regIndex_inj hr hd h.symm)
    simp [hrd, hd, hr, State.writeReg, State.readReg, hne]

/-! ### Fields of a register write -/

@[simp] theorem writeReg_hi (s : State) (d : Reg) (v : Word) : (s.writeReg d v).hi = s.hi := by
  unfold State.writeReg; split <;> rfl
@[simp] theorem writeReg_lo (s : State) (d : Reg) (v : Word) : (s.writeReg d v).lo = s.lo := by
  unfold State.writeReg; split <;> rfl
@[simp] theorem writeReg_pc (s : State) (d : Reg) (v : Word) : (s.writeReg d v).pc = s.pc := by
  unfold State.writeReg; split <;> rfl
@[simp] theorem writeReg_status (s : State) (d : Reg) (v : Word) : (s.writeReg d v).status = s.status := by
  unfold State.writeReg; split <;> rfl
@[simp] theorem writeReg_mem (s : State) (d : Reg) (v : Word) : (s.writeReg d v).mem = s.mem := by
  unfold State.writeReg; split <;> rfl
@[simp] theorem writeReg_params (s : State) (d : Reg) (v : Word) : (s.writeReg d v).params = s.params := by
  unfold State.writeReg; split <;> rfl
@[simp] theorem writeReg_cp0 (s : State) (d : Reg) (v : Word) : (s.writeReg d v).cp0 = s.cp0 := by
  unfold State.writeReg; split <;> rfl
@[simp] theorem writeReg_draws (s : State) (d : Reg) (v : Word) : (s.writeReg d v).draws = s.draws := by
  unfold State.writeReg; split <;> rfl

/-! ### Fields of a write to HI and LO -/

@[simp] theorem setHiLo_gpr (s : State) (h l : Word) : (s.setHiLo h l).gpr = s.gpr := rfl
@[simp] theorem setHiLo_hi (s : State) (h l : Word) : (s.setHiLo h l).hi = h := rfl
@[simp] theorem setHiLo_lo (s : State) (h l : Word) : (s.setHiLo h l).lo = l := rfl
@[simp] theorem setHiLo_pc (s : State) (h l : Word) : (s.setHiLo h l).pc = s.pc := rfl
@[simp] theorem setHiLo_status (s : State) (h l : Word) : (s.setHiLo h l).status = s.status := rfl
@[simp] theorem setHiLo_mem (s : State) (h l : Word) : (s.setHiLo h l).mem = s.mem := rfl
@[simp] theorem setHiLo_params (s : State) (h l : Word) : (s.setHiLo h l).params = s.params := rfl
@[simp] theorem setHiLo_cp0 (s : State) (h l : Word) : (s.setHiLo h l).cp0 = s.cp0 := rfl
@[simp] theorem setHiLo_draws (s : State) (h l : Word) : (s.setHiLo h l).draws = s.draws := rfl

/-! ### Fields of the draws -/

@[simp] theorem drawLoHi_gpr (s : State) : s.drawLoHi.gpr = s.gpr := rfl
@[simp] theorem drawLoHi_lo (s : State) : s.drawLoHi.lo = s.drawn 0 := rfl
@[simp] theorem drawLoHi_hi (s : State) : s.drawLoHi.hi = s.drawn 1 := rfl
@[simp] theorem drawLoHi_pc (s : State) : s.drawLoHi.pc = s.pc := rfl
@[simp] theorem drawLoHi_status (s : State) : s.drawLoHi.status = s.status := rfl
@[simp] theorem drawLoHi_mem (s : State) : s.drawLoHi.mem = s.mem := rfl
@[simp] theorem drawLoHi_params (s : State) : s.drawLoHi.params = s.params := rfl
@[simp] theorem drawLoHi_cp0 (s : State) : s.drawLoHi.cp0 = s.cp0 := rfl
@[simp] theorem drawLoHi_draws (s : State) : s.drawLoHi.draws = s.draws + 2 := rfl
@[simp] theorem drawHiLo_gpr (s : State) : s.drawHiLo.gpr = s.gpr := rfl
@[simp] theorem drawHiLo_hi (s : State) : s.drawHiLo.hi = s.drawn 0 := rfl
@[simp] theorem drawHiLo_lo (s : State) : s.drawHiLo.lo = s.drawn 1 := rfl
@[simp] theorem drawHiLo_pc (s : State) : s.drawHiLo.pc = s.pc := rfl
@[simp] theorem drawHiLo_status (s : State) : s.drawHiLo.status = s.status := rfl
@[simp] theorem drawHiLo_mem (s : State) : s.drawHiLo.mem = s.mem := rfl
@[simp] theorem drawHiLo_params (s : State) : s.drawHiLo.params = s.params := rfl
@[simp] theorem drawHiLo_cp0 (s : State) : s.drawHiLo.cp0 = s.cp0 := rfl
@[simp] theorem drawHiLo_draws (s : State) : s.drawHiLo.draws = s.draws + 2 := rfl

/-! ### Fields of a write to the pc -/

@[simp] theorem setPc_pc (s : State) (p : Word) : (s.setPc p).pc = p := rfl
@[simp] theorem setPc_gpr (s : State) (p : Word) : (s.setPc p).gpr = s.gpr := rfl
@[simp] theorem setPc_hi (s : State) (p : Word) : (s.setPc p).hi = s.hi := rfl
@[simp] theorem setPc_lo (s : State) (p : Word) : (s.setPc p).lo = s.lo := rfl
@[simp] theorem setPc_status (s : State) (p : Word) : (s.setPc p).status = s.status := rfl
@[simp] theorem setPc_mem (s : State) (p : Word) : (s.setPc p).mem = s.mem := rfl
@[simp] theorem setPc_params (s : State) (p : Word) : (s.setPc p).params = s.params := rfl
@[simp] theorem setPc_cp0 (s : State) (p : Word) : (s.setPc p).cp0 = s.cp0 := rfl
@[simp] theorem setPc_draws (s : State) (p : Word) : (s.setPc p).draws = s.draws := rfl

/-! ### Fields of a refusal -/

@[simp] theorem refuse_gpr (s : State) (e : RefusedReason) : (s.refuse e).gpr = s.gpr := rfl
@[simp] theorem refuse_hi (s : State) (e : RefusedReason) : (s.refuse e).hi = s.hi := rfl
@[simp] theorem refuse_lo (s : State) (e : RefusedReason) : (s.refuse e).lo = s.lo := rfl
@[simp] theorem refuse_pc (s : State) (e : RefusedReason) : (s.refuse e).pc = s.pc := rfl
@[simp] theorem refuse_status (s : State) (e : RefusedReason) : (s.refuse e).status = .refused e := rfl
@[simp] theorem refuse_mem (s : State) (e : RefusedReason) : (s.refuse e).mem = s.mem := rfl
@[simp] theorem refuse_params (s : State) (e : RefusedReason) : (s.refuse e).params = s.params := rfl
@[simp] theorem refuse_cp0 (s : State) (e : RefusedReason) : (s.refuse e).cp0 = s.cp0 := rfl
@[simp] theorem refuse_draws (s : State) (e : RefusedReason) : (s.refuse e).draws = s.draws := rfl

/-! ### Fields of an exception and of a placed word -/

@[simp] theorem takeException_gpr (s : State) (c : ExcCause) : (s.takeException c).gpr = s.gpr := by
  unfold State.takeException; split <;> rfl
@[simp] theorem takeException_hi (s : State) (c : ExcCause) : (s.takeException c).hi = s.hi := by
  unfold State.takeException; split <;> rfl
@[simp] theorem takeException_lo (s : State) (c : ExcCause) : (s.takeException c).lo = s.lo := by
  unfold State.takeException; split <;> rfl
@[simp] theorem takeException_mem (s : State) (c : ExcCause) : (s.takeException c).mem = s.mem := by
  unfold State.takeException; split <;> rfl
@[simp] theorem takeException_params (s : State) (c : ExcCause) : (s.takeException c).params = s.params := by
  unfold State.takeException; split <;> rfl
@[simp] theorem takeException_draws (s : State) (c : ExcCause) : (s.takeException c).draws = s.draws := by
  unfold State.takeException; split <;> rfl
@[simp] theorem readReg_takeException (s : State) (c : ExcCause) (r : Reg) :
    (s.takeException c).readReg r = s.readReg r := readReg_congr (takeException_gpr s c) r

theorem takeException_endRun {s : State} (h : s.params.trapEntry = .endRun) (c : ExcCause) :
    s.takeException c = { s with status := .trapped c s.pc } := by
  unfold State.takeException; rw [h]

theorem takeException_handler {s : State} (h : s.params.trapEntry = .handler) (c : ExcCause) :
    s.takeException c = { s with pc := s.cp0.vector, cp0 := s.cp0.enter c s.pc } := by
  unfold State.takeException; rw [h]

@[simp] theorem withFetchWord_pc (s : State) (n w : Nat) : (s.withFetchWord n w).pc = s.pc := rfl
@[simp] theorem withFetchWord_status (s : State) (n w : Nat) : (s.withFetchWord n w).status = s.status := rfl
@[simp] theorem withFetchWord_params (s : State) (n w : Nat) : (s.withFetchWord n w).params = s.params := rfl
@[simp] theorem withFetchWord_cp0 (s : State) (n w : Nat) : (s.withFetchWord n w).cp0 = s.cp0 := rfl

end Sys2Proof.Machine
end

