-- ==== Sys2Proof/Laws/Decode.lean ====
section
/-! SUPPORT. The decoder: no word satisfies two rows, so a word that satisfies a row decodes by it; the fields of an
assembled word. -/

namespace Sys2Proof

/-- The rows are pairwise disjoint: on the bits both masks fix, two patterns differ (R73). -/
theorem opcodeRows_disjoint : opcodeRows.Pairwise (fun r q => r.pattern &&& q.mask ≠ q.pattern &&& r.mask) := by
  decide

theorem common_bits {w m p m' p' : Word} (h : w &&& m = p) (h' : w &&& m' = p') : p &&& m' = p' &&& m := by
  rw [← h, ← h', BitVec.and_assoc, BitVec.and_assoc, BitVec.and_comm m m']

/-- In pairwise disjoint rows, the row a word satisfies is the row a search finds. -/
theorem find_row {rows : List OpcodeRow}
    (disjoint : rows.Pairwise (fun r q => r.pattern &&& q.mask ≠ q.pattern &&& r.mask)) {w : Word} {r : OpcodeRow}
    (hr : r ∈ rows) (hw : w &&& r.mask = r.pattern) : rows.find? (fun q => w &&& q.mask == q.pattern) = some r := by
  induction rows with
  | nil => cases hr
  | cons q rest ih =>
    obtain ⟨first, others⟩ := List.pairwise_cons.1 disjoint
    rcases List.mem_cons.1 hr with rfl | hr
    · simp [List.find?, hw]
    · have hq : ¬ (w &&& q.mask = q.pattern) := fun hq => first r hr (common_bits hq hw)
      simp only [List.find?, beq_eq_false_iff_ne.2 hq]
      exact ih others hr

/-- A word that satisfies a row decodes by that row. -/
theorem decode_of_row {w : Word} {r : OpcodeRow} (hr : r ∈ opcodeRows) (hw : w &&& r.mask = r.pattern) :
    decode w = .ok (r.build w) := by
  unfold decode
  rw [find_row opcodeRows_disjoint hr hw]

/-- A decoded word satisfies the row that decoded it. -/
theorem row_of_decode {w : Word} {i : Instr} (h : decode w = .ok i) :
    ∃ r ∈ opcodeRows, w &&& r.mask = r.pattern ∧ r.build w = i := by
  unfold decode at h
  split at h
  · rename_i r hf
    exact ⟨r, List.mem_of_find?_eq_some hf, by simpa using List.find?_some hf, by simpa using h⟩
  · cases h

/-! ### Fields of an assembled word (R84) -/

theorem rs_encodeR (op : BitVec 6) (rs rt rd : Reg) (sa : Shamt) (fn : BitVec 6) :
    (encodeR op rs rt rd sa fn).rs = rs := by
  apply BitVec.eq_of_getLsbD_eq
  intro i hi
  simp only [Word.rs, encodeR, BitVec.getLsbD_extractLsb', BitVec.getLsbD_cast, BitVec.getLsbD_append]
  interval_cases i <;> simp

theorem rt_encodeR (op : BitVec 6) (rs rt rd : Reg) (sa : Shamt) (fn : BitVec 6) :
    (encodeR op rs rt rd sa fn).rt = rt := by
  apply BitVec.eq_of_getLsbD_eq
  intro i hi
  simp only [Word.rt, encodeR, BitVec.getLsbD_extractLsb', BitVec.getLsbD_cast, BitVec.getLsbD_append]
  interval_cases i <;> simp

theorem rd_encodeR (op : BitVec 6) (rs rt rd : Reg) (sa : Shamt) (fn : BitVec 6) :
    (encodeR op rs rt rd sa fn).rd = rd := by
  apply BitVec.eq_of_getLsbD_eq
  intro i hi
  simp only [Word.rd, encodeR, BitVec.getLsbD_extractLsb', BitVec.getLsbD_cast, BitVec.getLsbD_append]
  interval_cases i <;> simp

theorem sa_encodeR (op : BitVec 6) (rs rt rd : Reg) (sa : Shamt) (fn : BitVec 6) :
    (encodeR op rs rt rd sa fn).sa = sa := by
  apply BitVec.eq_of_getLsbD_eq
  intro i hi
  simp only [Word.sa, encodeR, BitVec.getLsbD_extractLsb', BitVec.getLsbD_cast, BitVec.getLsbD_append]
  interval_cases i <;> simp

theorem rs_encodeI (op : BitVec 6) (rs rt : Reg) (imm : Imm16) : (encodeI op rs rt imm).rs = rs := by
  apply BitVec.eq_of_getLsbD_eq
  intro i hi
  simp only [Word.rs, encodeI, BitVec.getLsbD_extractLsb', BitVec.getLsbD_cast, BitVec.getLsbD_append]
  interval_cases i <;> simp

theorem rt_encodeI (op : BitVec 6) (rs rt : Reg) (imm : Imm16) : (encodeI op rs rt imm).rt = rt := by
  apply BitVec.eq_of_getLsbD_eq
  intro i hi
  simp only [Word.rt, encodeI, BitVec.getLsbD_extractLsb', BitVec.getLsbD_cast, BitVec.getLsbD_append]
  interval_cases i <;> simp

theorem imm16_encodeI (op : BitVec 6) (rs rt : Reg) (imm : Imm16) : (encodeI op rs rt imm).imm16 = imm := by
  apply BitVec.eq_of_getLsbD_eq
  intro i hi
  simp only [Word.imm16, encodeI, BitVec.getLsbD_extractLsb', BitVec.getLsbD_cast, BitVec.getLsbD_append]
  interval_cases i <;> simp

theorem sysCode_encodeSys (code : SysCode) : (encodeSys code).sysCode = code := by
  apply BitVec.eq_of_getLsbD_eq
  intro i hi
  simp only [Word.sysCode, encodeSys, BitVec.getLsbD_extractLsb', BitVec.getLsbD_cast, BitVec.getLsbD_append]
  interval_cases i <;> simp

end Sys2Proof
end

