-- ==== Sys2Proof/Laws/Memory.lean ====
section
/-! SUPPORT. The program text: a read after a write, the canonical form kept by every operation, and a word placed and
fetched in either byte order. -/

namespace Sys2Proof.Machine

/-! ### Bytes -/

theorem Memory.read_write (m : Memory) (a : Nat) (b : Byte) (x : Nat) :
    (m.write a b).read x = if x = a then some b else m.read x := by
  induction m with
  | nil => simp [Memory.write, Memory.read, eq_comm]
  | cons c rest ih =>
    obtain ⟨k, d⟩ := c
    unfold Memory.write
    by_cases h1 : a < k
    · by_cases h : x = a
      · simp [h1, Memory.read, h]
      · have h' : ¬ a = x := fun e => h e.symm
        simp [h1, Memory.read, h, h']
    · by_cases h2 : a = k
      · subst h2
        by_cases h : x = a
        · simp [Memory.read, h]
        · have h' : ¬ a = x := fun e => h e.symm
          simp [Memory.read, h, h']
      · by_cases h : x = a
        · have hk : ¬ k = a := fun e => h2 e.symm
          rw [if_neg h1, if_neg h2, Memory.read, ih, h, if_neg hk, if_pos rfl, if_pos rfl]
        · simp [h1, h2, Memory.read, ih, h]

theorem Memory.mem_write {m : Memory} {a : Nat} {b : Byte} {c : Host.Cell} (h : c ∈ m.write a b) :
    c = (a, b) ∨ c ∈ m := by
  induction m with
  | nil => exact .inl (by simpa [Memory.write] using h)
  | cons d rest ih =>
    obtain ⟨k, e⟩ := d
    unfold Memory.write at h
    split at h
    · simpa using h
    · split at h
      · rcases List.mem_cons.1 h with h | h
        · exact .inl h
        · exact .inr (List.mem_cons_of_mem _ h)
      · rcases List.mem_cons.1 h with h | h
        · exact .inr (h ▸ List.mem_cons_self ..)
        · exact (ih h).imp id (List.mem_cons_of_mem _)

/-- Placing a byte within the address space keeps the canonical form. -/
theorem Memory.wf_write {m : Memory} (h : m.wf) {a : Nat} (ha : a < 2 ^ 32) (b : Byte) : (m.write a b).wf := by
  refine ⟨?_, fun c hc => (Memory.mem_write hc).elim (fun e => e ▸ ha) (h.2 c)⟩
  obtain ⟨rising, -⟩ := h
  induction m with
  | nil => simp [Memory.write]
  | cons d rest ih =>
    obtain ⟨k, e⟩ := d
    obtain ⟨first, others⟩ := List.pairwise_cons.1 rising
    unfold Memory.write
    split
    · rename_i lt
      refine List.pairwise_cons.2 ⟨fun c hc => ?_, rising⟩
      rcases List.mem_cons.1 hc with rfl | hc
      · exact lt
      · exact Nat.lt_trans lt (first c hc)
    · split
      · rename_i eq
        exact List.pairwise_cons.2 ⟨fun c hc => eq ▸ first c hc, others⟩
      · rename_i nlt ne
        refine List.pairwise_cons.2 ⟨fun c hc => ?_, ih others⟩
        rcases Memory.mem_write hc with rfl | hc
        · change k < a
          omega
        · exact first c hc

/-! ### Words -/

/-- Placing an aligned word keeps the canonical form. -/
theorem Memory.wf_storeWord {m : Memory} (h : m.wf) (be : Bool) {a : Nat} (ha : a + 3 < 2 ^ 32) (w : Word) :
    (m.storeWord be a w).wf := by
  unfold Memory.storeWord
  exact Memory.wf_write (Memory.wf_write (Memory.wf_write (Memory.wf_write h (by omega) _) (by omega) _) (by omega) _)
    (by omega) _

/-- A program of aligned words is placed in canonical form. -/
theorem Program.wf_toMemory (be : Bool) {p : Program} (aligned : ∀ e ∈ p, Aligned e.1) : (p.toMemory be).wf := by
  induction p with
  | nil => exact ⟨List.Pairwise.nil, fun _ h => absurd h List.not_mem_nil⟩
  | cons e rest ih =>
    have top : Aligned e.1 := aligned e (List.mem_cons_self ..)
    have := e.1.isLt
    unfold Aligned at top
    exact Memory.wf_storeWord (ih fun x hx => aligned x (List.mem_cons_of_mem _ hx)) be (by omega) e.2

/-- The memory after reset is in canonical form. -/
theorem wf_reset : State.reset.mem.wf := by decide

/-- The byte an address holds after a word is placed. -/
theorem Memory.read_storeWord (m : Memory) (be : Bool) (a : Nat) (w : Word) (x : Nat) :
    (m.storeWord be a w).read x =
      if x = a + 3 then some (byteOfWord be w 3) else if x = a + 2 then some (byteOfWord be w 2)
      else if x = a + 1 then some (byteOfWord be w 1) else if x = a then some (byteOfWord be w 0) else m.read x := by
  simp only [Memory.storeWord, Memory.read_write]

/-- The bytes of a word make the word again, in either byte order (R43). -/
theorem wordOfBytes_byteOfWord (be : Bool) (w : Word) :
    wordOfBytes be (byteOfWord be w 0) (byteOfWord be w 1) (byteOfWord be w 2) (byteOfWord be w 3) = w := by
  apply BitVec.eq_of_getLsbD_eq
  intro i hi
  cases be <;> simp only [wordOfBytes, byteOfWord, Bool.false_eq_true, if_true, if_false, BitVec.getLsbD_cast,
    BitVec.getLsbD_append, BitVec.getLsbD_extractLsb'] <;> interval_cases i <;> simp

/-- Fetching a word where it was placed gives it back. -/
theorem Memory.fetchWord_storeWord (m : Memory) (be : Bool) {a : Nat} (ha : a % 4 = 0) (w : Word) :
    (m.storeWord be a w).fetchWord be a = some w := by
  simp [Memory.fetchWord, ha, Memory.read_storeWord, wordOfBytes_byteOfWord]

/-- Placing an aligned word leaves the fetch at every other address alone. -/
theorem Memory.fetchWord_storeWord_ne (m : Memory) (be : Bool) {a x : Nat} (ha : a % 4 = 0) (hx : x ≠ a) (w : Word) :
    (m.storeWord be a w).fetchWord be x = m.fetchWord be x := by
  unfold Memory.fetchWord
  by_cases h4 : x % 4 = 0
  · have apart : ∀ j, j < 4 → (m.storeWord be a w).read (x + j) = m.read (x + j) := by
      intro j hj
      rw [Memory.read_storeWord, if_neg (by omega), if_neg (by omega), if_neg (by omega), if_neg (by omega)]
    simp only [h4, if_true, apart 1 (by omega), apart 2 (by omega), apart 3 (by omega)]
    rw [show (m.storeWord be a w).read x = m.read x from apart 0 (by omega)]
  · simp only [h4, if_false]

/-- A fetch that answers a word read four bytes that memory holds, at an aligned address. -/
theorem Memory.fetchWord_eq_some {m : Memory} {be : Bool} {a : Nat} {w : Word} (h : m.fetchWord be a = some w) :
    a % 4 = 0 ∧ ∀ j, j < 4 → (m.read (a + j)).isSome := by
  unfold Memory.fetchWord at h
  split at h
  · rename_i h4
    refine ⟨h4, fun j hj => ?_⟩
    split at h
    · rename_i h0 h1 h2 h3
      interval_cases j <;> simp [h0, h1, h2, h3]
    · cases h
  · cases h

/-- The instruction placed for the next fetch is the one fetched. -/
theorem fetch_withFetchWord {s : State} (h : Aligned s.pc) (n w : Nat) :
    (s.withFetchWord n w).fetch = some (tableWord n w) :=
  Memory.fetchWord_storeWord _ _ h _

end Sys2Proof.Machine
end

