-- ==== Sys2Proof/Laws/Exec.lean ====
section
/-! SUPPORT. What a shared operation, an instruction and a step can do, each said once. -/

namespace Sys2Proof.Machine

/-! ### Ending an instruction -/

theorem finish_completes {s : State} (h : s.pc ≠ Config.lastWord) (t : State) :
    s.finish t = .next (t.setPc (s.pc + 4#32)) := if_neg h

theorem finish_wraps {s : State} (h : s.pc = Config.lastWord) (t : State) : s.finish t = .next (s.refuse .pcWrap) :=
  if_pos h

/-- `finish` answers a next state: the refusal of R28, or the writes with the pc advanced. -/
theorem finish_cases (s t : State) :
    (s.pc = Config.lastWord ∧ s.finish t = .next (s.refuse .pcWrap)) ∨
    (s.pc ≠ Config.lastWord ∧ s.finish t = .next (t.setPc (s.pc + 4#32))) := by
  by_cases h : s.pc = Config.lastWord
  · exact .inl ⟨h, finish_wraps h t⟩
  · exact .inr ⟨h, finish_completes h t⟩

/-- The parts of the state an instruction's own writes never touch. -/
def SameFixed (s t : State) : Prop :=
  t.status = s.status ∧ t.mem = s.mem ∧ t.params = s.params ∧ t.cp0 = s.cp0

theorem sameFixed_writeReg (s : State) (d : Reg) (v : Word) : SameFixed s (s.writeReg d v) := by simp [SameFixed]
theorem sameFixed_setHiLo (s : State) (h l : Word) : SameFixed s (s.setHiLo h l) := by simp [SameFixed]
theorem sameFixed_drawLoHi (s : State) : SameFixed s s.drawLoHi := by simp [SameFixed]
theorem sameFixed_writeReg_draw (s : State) (d : Reg) (v : Word) : SameFixed s (s.writeReg d v).drawHiLo := by
  simp [SameFixed]

/-- Every instruction, in every state, raises or ends by `finish`, having touched none of the fixed parts. -/
theorem exec_cases (i : Instr) (s : State) :
    (∃ c, exec i s = s.raise c) ∨ ∃ t, exec i s = s.finish t ∧ SameFixed s t := by
  have trapping : ∀ d t33, (∃ c, s.finishTrapping d t33 = s.raise c) ∨
      ∃ t, s.finishTrapping d t33 = s.finish t ∧ SameFixed s t := by
    intro d t33
    unfold State.finishTrapping
    split
    · exact .inl ⟨_, rfl⟩
    · exact .inr ⟨_, rfl, sameFixed_writeReg ..⟩
  cases i
  case add => exact trapping _ _
  case addi => exact trapping _ _
  case sub => exact trapping _ _
  case syscall => exact .inl ⟨_, rfl⟩
  case mul => exact .inr ⟨_, rfl, sameFixed_writeReg_draw ..⟩
  case mult => exact .inr ⟨_, rfl, sameFixed_setHiLo ..⟩
  case multu => exact .inr ⟨_, rfl, sameFixed_setHiLo ..⟩
  case div rs rt =>
    right
    simp only [exec, execDiv]
    split
    · exact ⟨_, rfl, sameFixed_drawLoHi s⟩
    · split
      · refine ⟨_, rfl, ?_⟩
        unfold State.divOverflowResult
        split
        · exact sameFixed_setHiLo ..
        · exact sameFixed_drawLoHi s
      · exact ⟨_, rfl, sameFixed_setHiLo ..⟩
  case divu rs rt =>
    right
    simp only [exec, execDivu]
    split
    · exact ⟨_, rfl, sameFixed_drawLoHi s⟩
    · exact ⟨_, rfl, sameFixed_setHiLo ..⟩
  all_goals exact .inr ⟨_, rfl, sameFixed_writeReg ..⟩

/-! ### A step -/

theorem step_running {s : State} (h : s.status = .running) :
    step s = match s.fetch with
      | none => .next (s.refuse .fetchOutsideProgram)
      | some w => match decode w with
        | .error _ => .next (s.refuse .undecodable)
        | .ok i => exec i s := by
  obtain ⟨gpr, hi, lo, pc, status, mem, params, cp0, draws⟩ := s
  change status = .running at h
  subst h
  rfl

/-- What a step of a Running state can do (R216). -/
theorem step_cases {s : State} (h : s.status = .running) :
    (s.fetch = none ∧ step s = .next (s.refuse .fetchOutsideProgram)) ∨
    (∃ w e, s.fetch = some w ∧ decode w = .error e ∧ step s = .next (s.refuse .undecodable)) ∨
    (∃ w i, s.fetch = some w ∧ decode w = .ok i ∧ step s = exec i s) := by
  rw [step_running h]
  cases hf : s.fetch with
  | none => exact .inl ⟨rfl, rfl⟩
  | some w =>
    cases hd : decode w with
    | error e => exact .inr (.inl ⟨w, e, rfl, hd, by simp [hd]⟩)
    | ok i => exact .inr (.inr ⟨w, i, rfl, hd, by simp [hd]⟩)

end Sys2Proof.Machine
end

