-- ==== Sys2Proof/Laws/PerInstr.lean ====
section
/-! SUPPORT. Per-instruction laws, one lemma per constructor. `Expand`: what a term expands to (R80) is an instruction of
the hardware, and has the same word. -/

/-- The instruction a term stands for is well-formed and is assembled to the term's own word. -/
def Sys2Proof.Laws.Expand.Statement (i : Sys2Proof.Instr) : Prop :=
  i.expand.wellFormed = true ∧ Sys2Proof.encode i.expand = Sys2Proof.encode i

theorem Sys2Proof.Laws.Expand.add (rd rs rt : Sys2Proof.Reg) :
    Sys2Proof.Laws.Expand.Statement (.add rd rs rt) := ⟨rfl, rfl⟩

theorem Sys2Proof.Laws.Expand.addi (rt rs : Sys2Proof.Reg) (imm : Sys2Proof.Imm16) :
    Sys2Proof.Laws.Expand.Statement (.addi rt rs imm) := ⟨rfl, rfl⟩

theorem Sys2Proof.Laws.Expand.addiu (rt rs : Sys2Proof.Reg) (imm : Sys2Proof.Imm16) :
    Sys2Proof.Laws.Expand.Statement (.addiu rt rs imm) := ⟨rfl, rfl⟩

theorem Sys2Proof.Laws.Expand.addu (rd rs rt : Sys2Proof.Reg) :
    Sys2Proof.Laws.Expand.Statement (.addu rd rs rt) := ⟨rfl, rfl⟩

theorem Sys2Proof.Laws.Expand.and (rd rs rt : Sys2Proof.Reg) :
    Sys2Proof.Laws.Expand.Statement (.and rd rs rt) := ⟨rfl, rfl⟩

theorem Sys2Proof.Laws.Expand.andi (rt rs : Sys2Proof.Reg) (imm : Sys2Proof.Imm16) :
    Sys2Proof.Laws.Expand.Statement (.andi rt rs imm) := ⟨rfl, rfl⟩

theorem Sys2Proof.Laws.Expand.div (rs rt : Sys2Proof.Reg) :
    Sys2Proof.Laws.Expand.Statement (.div rs rt) := ⟨rfl, rfl⟩

theorem Sys2Proof.Laws.Expand.divu (rs rt : Sys2Proof.Reg) :
    Sys2Proof.Laws.Expand.Statement (.divu rs rt) := ⟨rfl, rfl⟩

theorem Sys2Proof.Laws.Expand.mul (rd rs rt : Sys2Proof.Reg) :
    Sys2Proof.Laws.Expand.Statement (.mul rd rs rt) := ⟨rfl, rfl⟩

theorem Sys2Proof.Laws.Expand.mult (rs rt : Sys2Proof.Reg) :
    Sys2Proof.Laws.Expand.Statement (.mult rs rt) := ⟨rfl, rfl⟩

theorem Sys2Proof.Laws.Expand.multu (rs rt : Sys2Proof.Reg) :
    Sys2Proof.Laws.Expand.Statement (.multu rs rt) := ⟨rfl, rfl⟩

theorem Sys2Proof.Laws.Expand.nor (rd rs rt : Sys2Proof.Reg) :
    Sys2Proof.Laws.Expand.Statement (.nor rd rs rt) := ⟨rfl, rfl⟩

theorem Sys2Proof.Laws.Expand.or (rd rs rt : Sys2Proof.Reg) :
    Sys2Proof.Laws.Expand.Statement (.or rd rs rt) := ⟨rfl, rfl⟩

theorem Sys2Proof.Laws.Expand.ori (rt rs : Sys2Proof.Reg) (imm : Sys2Proof.Imm16) :
    Sys2Proof.Laws.Expand.Statement (.ori rt rs imm) := ⟨rfl, rfl⟩

theorem Sys2Proof.Laws.Expand.sll (rd rt : Sys2Proof.Reg) (sa : Sys2Proof.Shamt) :
    Sys2Proof.Laws.Expand.Statement (.sll rd rt sa) := ⟨rfl, rfl⟩

theorem Sys2Proof.Laws.Expand.slt (rd rs rt : Sys2Proof.Reg) :
    Sys2Proof.Laws.Expand.Statement (.slt rd rs rt) := ⟨rfl, rfl⟩

theorem Sys2Proof.Laws.Expand.slti (rt rs : Sys2Proof.Reg) (imm : Sys2Proof.Imm16) :
    Sys2Proof.Laws.Expand.Statement (.slti rt rs imm) := ⟨rfl, rfl⟩

theorem Sys2Proof.Laws.Expand.sltiu (rt rs : Sys2Proof.Reg) (imm : Sys2Proof.Imm16) :
    Sys2Proof.Laws.Expand.Statement (.sltiu rt rs imm) := ⟨rfl, rfl⟩

theorem Sys2Proof.Laws.Expand.sltu (rd rs rt : Sys2Proof.Reg) :
    Sys2Proof.Laws.Expand.Statement (.sltu rd rs rt) := ⟨rfl, rfl⟩

theorem Sys2Proof.Laws.Expand.sra (rd rt : Sys2Proof.Reg) (sa : Sys2Proof.Shamt) :
    Sys2Proof.Laws.Expand.Statement (.sra rd rt sa) := ⟨rfl, rfl⟩

theorem Sys2Proof.Laws.Expand.srl (rd rt : Sys2Proof.Reg) (sa : Sys2Proof.Shamt) :
    Sys2Proof.Laws.Expand.Statement (.srl rd rt sa) := ⟨rfl, rfl⟩

theorem Sys2Proof.Laws.Expand.sub (rd rs rt : Sys2Proof.Reg) :
    Sys2Proof.Laws.Expand.Statement (.sub rd rs rt) := ⟨rfl, rfl⟩

theorem Sys2Proof.Laws.Expand.subu (rd rs rt : Sys2Proof.Reg) :
    Sys2Proof.Laws.Expand.Statement (.subu rd rs rt) := ⟨rfl, rfl⟩

theorem Sys2Proof.Laws.Expand.syscall (code : Sys2Proof.SysCode) :
    Sys2Proof.Laws.Expand.Statement (.syscall code) := ⟨rfl, rfl⟩

theorem Sys2Proof.Laws.Expand.xor (rd rs rt : Sys2Proof.Reg) :
    Sys2Proof.Laws.Expand.Statement (.xor rd rs rt) := ⟨rfl, rfl⟩

theorem Sys2Proof.Laws.Expand.xori (rt rs : Sys2Proof.Reg) (imm : Sys2Proof.Imm16) :
    Sys2Proof.Laws.Expand.Statement (.xori rt rs imm) := ⟨rfl, rfl⟩

theorem Sys2Proof.Laws.Expand.nop :
    Sys2Proof.Laws.Expand.Statement (.nop) := ⟨rfl, by decide⟩

theorem Sys2Proof.Laws.Expand.ssnop :
    Sys2Proof.Laws.Expand.Statement (.ssnop) := ⟨rfl, by decide⟩
end

