-- ==== Sys2Proof/Tests/Slice0.lean ====
section
/-! SUPPORT. The model's own tests. Expected results are those of 95_test_vectors.md: words of its section 4 or built from
the figures of 30_encoding.md, steps of its section 2. The last part shows, for each statement with hypotheses, states
and operands that meet them. -/

open Sys2Proof Sys2Proof.Machine

/-! ### Well-formedness (R73, R80) -/

theorem test_wellFormed_refuses_nop : Instr.nop.wellFormed = false := by decide
theorem test_wellFormed_refuses_ssnop : Instr.ssnop.wellFormed = false := by decide
theorem test_wellFormed_accepts_sll : (Instr.sll 0 0 1).wellFormed = true := by decide
theorem test_idioms_expand : Instr.nop.expand = .sll 0 0 0 ∧ Instr.ssnop.expand = .sll 0 0 1 := by decide
theorem test_disassemble_prints_idioms : disassemble 0x00000000 = .ok .nop ∧ disassemble 0x00000040 = .ok .ssnop ∧
    disassemble 0x00000080 = .ok (.sll 0 0 2) := ⟨rfl, rfl, rfl⟩

/-! ### Decoding: words written out field by field from the formats (opcode rs rt rd sa function) -/

theorem test_decode_add_sub :
    decode 0b000000_00001_00010_00011_00000_100000 = .ok (.add 3 1 2) ∧
    decode 0b000000_00001_00010_00011_00000_100001 = .ok (.addu 3 1 2) ∧
    decode 0b000000_00001_00010_00011_00000_100010 = .ok (.sub 3 1 2) ∧
    decode 0b000000_00001_00010_00011_00000_100011 = .ok (.subu 3 1 2) ∧
    decode 0b001000_00001_00010_1000000000000001 = .ok (.addi 2 1 0x8001) ∧
    decode 0b001001_00001_00010_1000000000000001 = .ok (.addiu 2 1 0x8001) := ⟨rfl, rfl, rfl, rfl, rfl, rfl⟩

theorem test_decode_logical :
    decode 0b000000_00001_00010_00011_00000_100100 = .ok (.and 3 1 2) ∧
    decode 0b000000_00001_00010_00011_00000_100101 = .ok (.or 3 1 2) ∧
    decode 0b000000_00001_00010_00011_00000_100110 = .ok (.xor 3 1 2) ∧
    decode 0b000000_00001_00010_00011_00000_100111 = .ok (.nor 3 1 2) ∧
    decode 0b001100_00001_00010_1000000000000001 = .ok (.andi 2 1 0x8001) ∧
    decode 0b001101_00001_00010_1000000000000001 = .ok (.ori 2 1 0x8001) ∧
    decode 0b001110_00001_00010_1000000000000001 = .ok (.xori 2 1 0x8001) := ⟨rfl, rfl, rfl, rfl, rfl, rfl, rfl⟩

theorem test_decode_mul_div :
    decode 0b011100_00001_00010_00011_00000_000010 = .ok (.mul 3 1 2) ∧
    decode 0b000000_00001_00010_00000_00000_011000 = .ok (.mult 1 2) ∧
    decode 0b000000_00001_00010_00000_00000_011001 = .ok (.multu 1 2) ∧
    decode 0b000000_00001_00010_00000_00000_011010 = .ok (.div 1 2) ∧
    decode 0b000000_00001_00010_00000_00000_011011 = .ok (.divu 1 2) := ⟨rfl, rfl, rfl, rfl, rfl⟩

theorem test_decode_shift_nop :
    decode 0b000000_00000_00001_00010_11111_000000 = .ok (.sll 2 1 31) ∧
    decode 0b000000_00000_00001_00010_11111_000010 = .ok (.srl 2 1 31) ∧
    decode 0b000000_00000_00001_00010_11111_000011 = .ok (.sra 2 1 31) ∧
    decode 0b000000_00000_00000_00000_00000_000000 = .ok (.sll 0 0 0) ∧
    decode 0b000000_00000_00000_00000_00001_000000 = .ok (.sll 0 0 1) ∧
    encode .nop = 0x00000000 ∧ encode .ssnop = 0x00000040 := ⟨rfl, rfl, rfl, rfl, rfl, rfl, rfl⟩

theorem test_decode_set_less :
    decode 0b000000_00001_00010_00011_00000_101010 = .ok (.slt 3 1 2) ∧
    decode 0b000000_00001_00010_00011_00000_101011 = .ok (.sltu 3 1 2) ∧
    decode 0b001010_00001_00010_1000000000000001 = .ok (.slti 2 1 0x8001) ∧
    decode 0b001011_00001_00010_1000000000000001 = .ok (.sltiu 2 1 0x8001) := ⟨rfl, rfl, rfl, rfl⟩

theorem test_decode_syscall :
    decode 0b000000_00000000000000000000_001100 = .ok (.syscall 0) ∧
    decode 0b000000_10000000000000000001_001100 = .ok (.syscall 0x80001) := ⟨rfl, rfl⟩

/-- Refused words: a must-be-zero field, a release-6 MUL, ROTR, LW, BEQ, BREAK, a function not in R71, all ones. -/
theorem test_decode_refuses :
    decode 0x00221860 = .error .undecodable ∧ decode 0x0022005A = .error .undecodable ∧
    decode 0x00221898 = .error .undecodable ∧ decode 0x00211042 = .error .undecodable ∧
    decode 0x8C220000 = .error .undecodable ∧ decode 0x10000000 = .error .undecodable ∧
    decode 0x0000000D = .error .undecodable ∧ decode 0x70221842 = .error .undecodable ∧
    decode 0xFFFFFFFF = .error .undecodable := ⟨rfl, rfl, rfl, rfl, rfl, rfl, rfl, rfl, rfl⟩

theorem test_encode_words :
    encode (.add 3 1 2) = 0x00221820 ∧ encode (.addi 2 1 0xFFFF) = 0x2022FFFF ∧ encode (.mul 3 1 2) = 0x70221802 ∧
    encode (.div 1 2) = 0x0022001A ∧ encode (.sra 2 1 31) = 0x000117C3 ∧ encode (.syscall 0xFFFFF) = 0x03FFFFCC := by
  decide

theorem test_decodeTableWord : decodeTableWord 32 0x00221820 = some (.add 3 1 2) ∧
    decodeTableWord 32 0x03FFFFCC = some (.syscall 0xFFFFF) ∧ decodeTableWord 32 0x8C220000 = none := ⟨rfl, rfl, rfl⟩

theorem test_decodeBytes_orders : decodeBytes true [0x34, 0x02, 0xFF, 0xFE] = .ok (.ori 2 0 0xFFFE, []) ∧
    decodeBytes false [0xFE, 0xFF, 0x02, 0x34, 0x00] = .ok (.ori 2 0 0xFFFE, [0x00]) ∧
    decodeBytes false [0xFE, 0xFF, 0x02] = .error .truncated := ⟨rfl, rfl, rfl⟩

/-! ### One step: the conventions of 95_test_vectors.md, pc 0x1000, x[3] the marker 0xDEADBEEF -/

/-- `word` at the pc 0x1000, x[1], x[2] as given, x[3] and HI, LO markers. -/
def testState (word r1 r2 : Word) : State :=
  (((({ State.reset with pc := 0x1000, hi := 0x1111, lo := 0x2222 } : State).writeReg 1 r1).writeReg 2 r2).writeReg 3
    0xDEADBEEF).withFetchWord 32 word.toNat

/-- The state a step gives, `s` itself where it gives none. -/
def after (s : State) : State :=
  match step s with
  | .next t => t
  | .fault _ => s
  | .refused _ => s

/-- A step writes `v` to register `r` and advances the pc. -/
def Writes (word r1 r2 : Word) (r : Reg) (v : Word) : Prop :=
  (after (testState word r1 r2)).readReg r = v ∧ (after (testState word r1 r2)).pc = 0x1004

/-- A step writes HI and LO and advances the pc. -/
def WritesHiLo (word r1 r2 hi lo : Word) : Prop :=
  (after (testState word r1 r2)).hi = hi ∧ (after (testState word r1 r2)).lo = lo ∧
  (after (testState word r1 r2)).pc = 0x1004

/-- A step raises: `Trapped(cause, 0x1000)`, and x[3] keeps its marker. -/
def Traps (word r1 r2 : Word) (c : ExcCause) : Prop :=
  (after (testState word r1 r2)).status = .trapped c 0x1000 ∧ (after (testState word r1 r2)).readReg 3 = 0xDEADBEEF ∧
  (after (testState word r1 r2)).pc = 0x1000

theorem test_add_mixed_signs : Writes 0x00221820 0x7FFFFFFF 0x80000000 3 0xFFFFFFFF := ⟨rfl, rfl⟩
theorem test_add_traps : Traps 0x00221820 0x80000000 0xFFFFFFFF .integerOverflow := ⟨rfl, rfl, rfl⟩
theorem test_addi_negative : Writes 0x2022FFFF 0x80000001 0 2 0x80000000 := ⟨rfl, rfl⟩
theorem test_addi_traps : Traps 0x20228000 0x80007FFF 0 .integerOverflow := ⟨rfl, rfl, rfl⟩
theorem test_addiu_no_trap : Writes 0x2422FFFF 0x80000000 0 2 0x7FFFFFFF := ⟨rfl, rfl⟩
theorem test_addu_wraps : Writes 0x00221821 0xFFFFFFFF 0xFFFFFFFF 3 0xFFFFFFFE := ⟨rfl, rfl⟩
theorem test_sub_order : Writes 0x00221822 0x80000001 0x00000001 3 0x80000000 := ⟨rfl, rfl⟩
theorem test_sub_traps : Traps 0x00221822 0x7FFFFFFF 0xFFFFFFFF .integerOverflow := ⟨rfl, rfl, rfl⟩
theorem test_subu_no_trap : Writes 0x00221823 0x80000000 0x00000001 3 0x7FFFFFFF := ⟨rfl, rfl⟩
theorem test_and : Writes 0x00221824 0xFF00FF00 0x0FF00FF0 3 0x0F000F00 := ⟨rfl, rfl⟩
theorem test_andi_zero_extends : Writes 0x30228000 0xFFFFFFFF 0 2 0x00008000 := ⟨rfl, rfl⟩
theorem test_or : Writes 0x00221825 0xFF00FF00 0x0FF00FF0 3 0xFFF0FFF0 := ⟨rfl, rfl⟩
theorem test_ori_zero_extends : Writes 0x34228765 0x12340000 0 2 0x12348765 := ⟨rfl, rfl⟩
theorem test_xor_same_register : Writes 0x00210826 0x12345678 0 1 0x00000000 := ⟨rfl, rfl⟩
theorem test_xori_zero_extends : Writes 0x3822FFFF 0xFFFFFFFF 0 2 0xFFFF0000 := ⟨rfl, rfl⟩
/-- `NOR r3, r1, r0` of program P1. -/
theorem test_nor_complements : Writes 0x00201827 0x12345678 0 3 0xEDCBA987 := ⟨rfl, rfl⟩
/-- -7 by 2: toward zero, the remainder with the dividend's sign. -/
theorem test_div_rounds_toward_zero : WritesHiLo 0x0022001A 0xFFFFFFF9 0x00000002 0xFFFFFFFF 0xFFFFFFFD := ⟨rfl, rfl, rfl⟩
theorem test_divu_unsigned : WritesHiLo 0x0022001B 0xFFFFFFF9 0x00000002 0x00000001 0x7FFFFFFC := ⟨rfl, rfl, rfl⟩
/-- By zero: no trap, HI and LO are draws, whatever these are. -/
theorem test_divu_by_zero :
    WritesHiLo 0x0022001B 0x00000007 0x00000000 (Config.freeValue 1) (Config.freeValue 0) := ⟨rfl, rfl, rfl⟩
theorem test_mul_low_word : Writes 0x70221802 0x12345678 0x9ABCDEF0 3 0x242D2080 := ⟨rfl, rfl⟩
theorem test_mul_draws : WritesHiLo 0x70220002 3 4 (Config.freeValue 0) (Config.freeValue 1) := ⟨rfl, rfl, rfl⟩
theorem test_mult_negative : WritesHiLo 0x00220018 0xFFFFFFF9 0x00000002 0xFFFFFFFF 0xFFFFFFF2 := ⟨rfl, rfl, rfl⟩
theorem test_mult_min : WritesHiLo 0x00220018 0x80000000 0x80000000 0x40000000 0x00000000 := ⟨rfl, rfl, rfl⟩
theorem test_multu_high : WritesHiLo 0x00220019 0xFFFFFFFF 0xFFFFFFFF 0xFFFFFFFE 0x00000001 := ⟨rfl, rfl, rfl⟩
theorem test_sll_drops_high_bits : Writes 0x000117C0 0x80000001 0 2 0x80000000 := ⟨rfl, rfl⟩
theorem test_srl_zero_fills : Writes 0x00011402 0xF2345678 0 2 0x0000F234 := ⟨rfl, rfl⟩
theorem test_sra_sign_fills : Writes 0x00011403 0xF2345678 0 2 0xFFFFF234 := ⟨rfl, rfl⟩
theorem test_nop : after (testState 0x00000000 1 2) = { testState 0x00000000 1 2 with pc := 0x1004 } := rfl
theorem test_ssnop : after (testState 0x00000040 1 2) = { testState 0x00000040 1 2 with pc := 0x1004 } := rfl
theorem test_nop_term : exec .nop (testState 0 1 2) = .next { testState 0 1 2 with pc := 0x1004 } := rfl
theorem test_ssnop_term : exec .ssnop (testState 0x40 1 2) = .next { testState 0x40 1 2 with pc := 0x1004 } := rfl
theorem test_slt_signed : Writes 0x0022182A 0x80000000 0x7FFFFFFF 3 1 := ⟨rfl, rfl⟩
theorem test_sltu_unsigned : Writes 0x0022182B 0x80000000 0x7FFFFFFF 3 0 := ⟨rfl, rfl⟩
theorem test_slti_signed : Writes 0x28228000 0xFFFF7FFF 0 2 1 := ⟨rfl, rfl⟩
theorem test_sltiu_sign_extends : Writes 0x2C22FFFF 0xFFFFFFFE 0 2 1 := ⟨rfl, rfl⟩
theorem test_sltiu_at_bound : Writes 0x2C228000 0xFFFF8000 0 2 0 := ⟨rfl, rfl⟩
theorem test_syscall_traps : Traps 0x0000000C 1 2 .systemCall := ⟨rfl, rfl, rfl⟩
theorem test_syscall_code : (after (testState 0x03FFFFCC 1 2)).trapCode = some 0xFFFFF := rfl

theorem test_register_zero_write : after (testState 0x00220020 5 6) = { testState 0x00220020 5 6 with pc := 0x1004 } := rfl

/-- `div_overflow` given as a pair (R142). -/
def pairState (s : State) : State := { s with params := { s.params with divOverflow := some (0x0, 0x80000000) } }

theorem test_div_overflow_pair : (after (pairState (testState 0x0022001A 0x80000000 0xFFFFFFFF))).hi = 0 ∧
    (after (pairState (testState 0x0022001A 0x80000000 0xFFFFFFFF))).lo = 0x80000000 := ⟨rfl, rfl⟩

/-- `trap_entry` a handler, and Status.EXL and Status.BEV as given. -/
def handlerState (s : State) (exl bev : Bool) : State :=
  { s with params := { s.params with trapEntry := .handler },
           cp0 := { s.cp0 with statusExl := exl, statusBev := bev, epc := 0x44 } }

/-- R214: to 0x8000_0180 with BEV 0, EPC the address of the instruction, ExcCode 12, then back. -/
theorem test_handler_entry :
    (after (handlerState (testState 0x00221820 0x7FFFFFFF 1) false false)).pc = 0x80000180 ∧
    (after (handlerState (testState 0x00221820 0x7FFFFFFF 1) false false)).cp0.epc = 0x1000 ∧
    (after (handlerState (testState 0x00221820 0x7FFFFFFF 1) false false)).cp0.causeExcCode = 12 ∧
    (after (handlerState (testState 0x00221820 0x7FFFFFFF 1) false false)).returnFromException.pc = 0x1000 :=
  ⟨rfl, rfl, rfl, rfl⟩

/-- R215: EPC is not updated with EXL set; R214: the vector with BEV 1. -/
theorem test_handler_entry_exl :
    (after (handlerState (testState 0x0000000C 1 2) true true)).pc = 0xBFC00380 ∧
    (after (handlerState (testState 0x0000000C 1 2) true true)).cp0.epc = 0x44 := ⟨rfl, rfl⟩

/-! ### The machine -/

/-- P7a of 95_test_vectors.md. -/
theorem test_step_undecodable :
    step (testState 0x8C220000 1 2) = .next { testState 0x8C220000 1 2 with status := .refused .undecodable } := rfl

/-- P7h. -/
theorem test_step_outside_program : step State.reset =
    .next { State.reset with status := .refused .fetchOutsideProgram } := rfl

/-- A word at the last address of the space, x[1] and x[2] as given. -/
def topState (word r1 r2 : Word) : State :=
  State.withFetchWord { ((State.reset.writeReg 1 r1).writeReg 2 r2) with pc := 0xFFFFFFFC } 32 word.toNat

/-- P7e: no write at the last word of the address space. -/
theorem test_wrap_refused : step (topState 0x00221821 1 2) =
    .next { topState 0x00221821 1 2 with status := .refused .pcWrap } := rfl

/-- P7f: a raise comes before the wrap (R216). -/
theorem test_raise_before_wrap : step (topState 0x0000000C 1 2) =
    .next { topState 0x0000000C 1 2 with status := .trapped .systemCall 0xFFFFFFFC } := rfl

theorem test_trapped_has_no_step : step { State.reset with status := .trapped .systemCall 0x1000 } =
    .fault (.runTrapped .systemCall 0x1000) := rfl

theorem test_refused_has_no_step : step { State.reset with status := .refused .undecodable } =
    .refused (.runRefused .undecodable) := rfl

/-- P7g. -/
theorem test_launch_misaligned :
    (State.launch [(0x1000, 0x0000000C)] 0x1002 Params.default (Vector.replicate 31 7) 8 9).status =
      .refused .misalignedEntry := rfl

theorem test_program_bytes_big : Program.toMemory true [(0x1000, 0x34011234)] =
    [(0x1000, 0x34), (0x1001, 0x01), (0x1002, 0x12), (0x1003, 0x34)] := by decide


/-! ### Witnesses: for each statement with hypotheses, states and operands that meet them, one line a clause -/

theorem test_witness_StepRunsDecodedInstruction : (testState 0x00221820 1 2).status = .running ∧
    (testState 0x00221820 1 2).fetch = some 0x00221820 ∧ decode 0x00221820 = .ok (.add 3 1 2) := ⟨rfl, rfl, rfl⟩

theorem test_witness_DecodeMatchesMasksOfTable : (0x8C220000#32 &&& 0xFC000000#32) ≠ 0x34000000#32 ∧
    (0x3422FFFF#32 &&& 0xFC000000#32) = 0x34000000#32 := by decide

theorem test_witness_DecodeEncodeRoundTrip : (Instr.add 31 0 31).wellFormed = true ∧
    (Instr.syscall 0xFFFFF).wellFormed = true := by decide

theorem test_witness_EncodeDecodeRoundTrip : decode 0x03FFFFCC = .ok (.syscall 0xFFFFF) ∧
    encode (.syscall 0xFFFFF) = 0x03FFFFCC := ⟨rfl, rfl⟩

/-- A word for each clause, one must-be-zero bit set: its lowest in two, its highest in two. -/
theorem test_witness_MustBeZeroFieldsAreRequired :
    ((0x00221860#32).extractLsb' 26 6 = 0b000000#6 ∧ (0x00221860#32).extractLsb' 0 6 = 0x20#6 ∧
      (0x00221860#32).extractLsb' 6 5 ≠ 0#5) ∧
    ((0x70221C02#32).extractLsb' 26 6 = 0b011100#6 ∧ (0x70221C02#32).extractLsb' 0 6 = 0x02#6 ∧
      (0x70221C02#32).extractLsb' 6 5 ≠ 0#5) ∧
    ((0x02011000#32).extractLsb' 26 6 = 0b000000#6 ∧ (0x02011000#32).extractLsb' 0 6 = 0x00#6 ∧
      (0x02011000#32).extractLsb' 21 5 ≠ 0#5) ∧
    ((0x0022005B#32).extractLsb' 26 6 = 0b000000#6 ∧ (0x0022005B#32).extractLsb' 0 6 = 0x1B#6 ∧
      (0x0022005B#32).extractLsb' 6 10 ≠ 0#10) := by decide

/-- P7d's word. -/
theorem test_witness_SrlWithBit21IsUndecodable : (0x00211002#32).extractLsb' 26 6 = 0b000000#6 ∧
    (0x00211002#32).extractLsb' 0 6 = 0b000010#6 ∧ (0x00211002#32).extractLsb' 22 4 = 0#4 ∧
    (0x00211002#32).getLsbD 21 = true := by decide

/-- A major opcode, a SPECIAL function and a SPECIAL2 function outside the tables, the first and last values beside them. -/
theorem test_witness_UndecodableWordsEndTheRunRefused :
    (0x04000000#32).extractLsb' 26 6 ∉ [0x00#6, 0x08#6, 0x09#6, 0x0A#6, 0x0B#6, 0x0C#6, 0x0D#6, 0x0E#6, 0x1C#6] ∧
    ((0x0000002C#32).extractLsb' 26 6 = 0x00#6 ∧ (0x0000002C#32).extractLsb' 0 6 ∉ [0x00#6, 0x02#6, 0x03#6, 0x0C#6,
      0x18#6, 0x19#6, 0x1A#6, 0x1B#6, 0x20#6, 0x21#6, 0x22#6, 0x23#6, 0x24#6, 0x25#6, 0x26#6, 0x27#6, 0x2A#6, 0x2B#6]) ∧
    ((0x70000003#32).extractLsb' 26 6 = 0x1C#6 ∧ (0x70000003#32).extractLsb' 0 6 ≠ 0x02#6) ∧
    (testState 0x8C220000 1 2).status = .running ∧ (testState 0x8C220000 1 2).fetch = some 0x8C220000 ∧
    decode 0x8C220000 = .error .undecodable := by
  refine ⟨by decide, by decide, by decide, rfl, rfl, rfl⟩

/-- The clauses on the exact integer: a sum and a difference that fit. -/
theorem test_witness_OverflowTestIsExactRange : overflows (addTemp 0x7FFFFFFE 1) = false ∧
    overflows (addTemp 0x7FFFFFFF 1) = true ∧ overflows (subTemp 0x80000001 1) = false ∧
    overflows (subTemp 0x80000000 1) = true := by decide

/-- The sums 2^31-1 and -2^31 fit, 2^31 and -2^31-1 do not. -/
theorem test_witness_AddWritesExactSumOrRaises : (0x00221820#32 &&& 0xFC0007FF#32) = 0x00000020#32 ∧
    (testState 0x00221820 0x7FFFFFFE 1).pc ≠ 0xFFFFFFFC#32 ∧
    InSigned32 (((testState 0 0x7FFFFFFE 1).readReg 1).toInt + ((testState 0 0x7FFFFFFE 1).readReg 2).toInt) ∧
    InSigned32 (((testState 0 0x80000001 0xFFFFFFFF).readReg 1).toInt +
      ((testState 0 0x80000001 0xFFFFFFFF).readReg 2).toInt) ∧
    ¬ InSigned32 (((testState 0 0x7FFFFFFF 1).readReg 1).toInt + ((testState 0 0x7FFFFFFF 1).readReg 2).toInt) ∧
    ¬ InSigned32 (((testState 0 0x80000000 0xFFFFFFFF).readReg 1).toInt +
      ((testState 0 0x80000000 0xFFFFFFFF).readReg 2).toInt) := by decide

theorem test_witness_AddiWritesExactSumOrRaises : (0x20220001#32 &&& 0xFC000000#32) = 0x20000000#32 ∧
    (testState 0x20220001 0x7FFFFFFE 0).pc ≠ 0xFFFFFFFC#32 ∧
    InSigned32 (((testState 0 0x7FFFFFFE 0).readReg 1).toInt + (1#16).toInt) ∧
    InSigned32 (((testState 0 0x80008000 0).readReg 1).toInt + (0x8000#16).toInt) ∧
    ¬ InSigned32 (((testState 0 0x7FFFFFFF 0).readReg 1).toInt + (1#16).toInt) ∧
    ¬ InSigned32 (((testState 0 0x80007FFF 0).readReg 1).toInt + (0x8000#16).toInt) := by decide

/-- The differences 2^31-1 and -2^31 fit, 2^31 and -2^31-1 do not. -/
theorem test_witness_SubWritesExactDifferenceOrRaises : (0x00221822#32 &&& 0xFC0007FF#32) = 0x00000022#32 ∧
    (testState 0x00221822 0x80000001 1).pc ≠ 0xFFFFFFFC#32 ∧
    InSigned32 (((testState 0 0xFFFFFFFF 0x80000000).readReg 1).toInt -
      ((testState 0 0xFFFFFFFF 0x80000000).readReg 2).toInt) ∧
    InSigned32 (((testState 0 0x80000001 1).readReg 1).toInt - ((testState 0 0x80000001 1).readReg 2).toInt) ∧
    ¬ InSigned32 (((testState 0 0 0x80000000).readReg 1).toInt - ((testState 0 0 0x80000000).readReg 2).toInt) ∧
    ¬ InSigned32 (((testState 0 0x80000000 1).readReg 1).toInt - ((testState 0 0x80000000 1).readReg 2).toInt) := by
  decide

theorem test_witness_AddiuWritesSumModulo : (0x2422FFFF#32 &&& 0xFC000000#32) = 0x24000000#32 ∧
    (testState 0x2422FFFF 0x80000000 0).pc ≠ 0xFFFFFFFC#32 := by decide
theorem test_witness_AdduWritesSumModulo : (0x00221821#32 &&& 0xFC0007FF#32) = 0x00000021#32 ∧
    (testState 0x00221821 0xFFFFFFFF 1).pc ≠ 0xFFFFFFFC#32 := by decide
theorem test_witness_SubuWritesDifferenceModulo : (0x00221823#32 &&& 0xFC0007FF#32) = 0x00000023#32 ∧
    (testState 0x00221823 0 1).pc ≠ 0xFFFFFFFC#32 := by decide

theorem test_witness_NonRaisingFormsAgreeWithUnsignedForms :
    (Instr.add 3 1 2).raises (testState 0 0x7FFFFFFE 1) = none ∧
    (Instr.addi 2 1 0x8000).raises (testState 0 0x80008000 0) = none ∧
    (Instr.sub 3 1 2).raises (testState 0 0x80000001 1) = none ∧
    (testState 0 0 0x80000000).pc ≠ 0xFFFFFFFC#32 ∧ (3#5 : Reg) ≠ 0#5 ∧
    (testState 0 0 0x80000000).readReg 2 = 0x80000000#32 := by decide

theorem test_witness_LogicalRegisterFormsWorkBitByBit : (0x00221824#32 &&& 0xFC0007FF#32) = 0x00000024#32 ∧
    (0x00221825#32 &&& 0xFC0007FF#32) = 0x00000025#32 ∧ (0x00221826#32 &&& 0xFC0007FF#32) = 0x00000026#32 ∧
    (0x00221827#32 &&& 0xFC0007FF#32) = 0x00000027#32 ∧ (testState 0x00221824 1 2).pc ≠ 0xFFFFFFFC#32 := by decide
theorem test_witness_LogicalImmediateFormsZeroExtend : (0x3022FFFF#32 &&& 0xFC000000#32) = 0x30000000#32 ∧
    (0x34228765#32 &&& 0xFC000000#32) = 0x34000000#32 ∧ (0x3822FFFF#32 &&& 0xFC000000#32) = 0x38000000#32 ∧
    (testState 0x3022FFFF 1 2).pc ≠ 0xFFFFFFFC#32 := by decide

/-- The four clauses of DIV: a zero divisor, -2^31 by -1 with `div_overflow` drawn and given, and -2^31 by 1. -/
theorem test_witness_DivWritesQuotientAndRemainder : (0x0022001A#32 &&& 0xFC00FFFF#32) = 0x0000001A#32 ∧
    (testState 0 7 0).pc ≠ 0xFFFFFFFC#32 ∧ ((testState 0 7 0).readReg 2).toInt = 0 ∧
    ((testState 0 0x80000000 0xFFFFFFFF).readReg 1).toInt = -2147483648 ∧
    ((testState 0 0x80000000 0xFFFFFFFF).readReg 2).toInt = -1 ∧
    (testState 0 0x80000000 0xFFFFFFFF).params.divOverflow = none ∧
    (pairState (testState 0 0x80000000 0xFFFFFFFF)).params.divOverflow = some (0x0, 0x80000000) ∧
    ((testState 0 0x80000000 1).readReg 2).toInt = 1 := by decide
theorem test_witness_DivuWritesQuotientAndRemainder : (0x0022001B#32 &&& 0xFC00FFFF#32) = 0x0000001B#32 ∧
    (testState 0 7 0).pc ≠ 0xFFFFFFFC#32 ∧ ((testState 0 7 0).readReg 2).toNat = 0 ∧
    ((testState 0 7 1).readReg 2).toNat ≠ 0 := by decide
theorem test_witness_ZeroDivisorDrawsHiAndLo : (testState 0x0022001A 7 0).readReg 2 = 0#32 ∧
    (testState 0x0022001A 7 0).pc ≠ 0xFFFFFFFC#32 := by decide
theorem test_witness_MulWritesLowWordAndDrawsHiLo : (0x70221802#32 &&& 0xFC0007FF#32) = 0x70000002#32 ∧
    (testState 0x70221802 3 4).pc ≠ 0xFFFFFFFC#32 := by decide
theorem test_witness_MultAndMultuWriteExactProduct : (0x00220018#32 &&& 0xFC00FFFF#32) = 0x00000018#32 ∧
    (0x00220019#32 &&& 0xFC00FFFF#32) = 0x00000019#32 ∧ (testState 0x00220018 3 4).pc ≠ 0xFFFFFFFC#32 := by decide
theorem test_witness_MulAgreesWithLoOfMultAndMultu :
    (testState 0 3 4).pc ≠ 0xFFFFFFFC#32 ∧ (31#5 : Reg) ≠ 0#5 := by decide

theorem test_witness_SllMultipliesByPowerOfTwo : (0x000117C0#32 &&& 0xFFE0003F#32) = 0x00000000#32 ∧
    (testState 0x000117C0 1 2).pc ≠ 0xFFFFFFFC#32 := by decide
theorem test_witness_SraDividesSignedByPowerOfTwo : (0x000117C3#32 &&& 0xFFE0003F#32) = 0x00000003#32 ∧
    (testState 0x000117C3 1 2).pc ≠ 0xFFFFFFFC#32 := by decide
theorem test_witness_SrlDividesUnsignedByPowerOfTwo : (0x000117C2#32 &&& 0xFFE0003F#32) = 0x00000002#32 ∧
    (testState 0x000117C2 1 2).pc ≠ 0xFFFFFFFC#32 := by decide
theorem test_witness_NopAndSsnopChangeOnlyThePc : (testState 0x00000000 1 2).pc ≠ 0xFFFFFFFC#32 ∧
    (testState 0x00000040 1 2).pc ≠ 0xFFFFFFFC#32 := by decide

theorem test_witness_SltAndSltuRecordComparison : (0x0022182A#32 &&& 0xFC0007FF#32) = 0x0000002A#32 ∧
    (0x0022182B#32 &&& 0xFC0007FF#32) = 0x0000002B#32 ∧ (testState 0x0022182A 1 2).pc ≠ 0xFFFFFFFC#32 := by decide
theorem test_witness_SltiAndSltiuRecordComparison : (0x2822FFFF#32 &&& 0xFC000000#32) = 0x28000000#32 ∧
    (0x2C22FFFF#32 &&& 0xFC000000#32) = 0x2C000000#32 ∧ (testState 0x2822FFFF 1 2).pc ≠ 0xFFFFFFFC#32 := by decide
theorem test_witness_SltAndSltuAgreeOnEqualSigns :
    (testState 0 1 0xFFFFFFFF).pc ≠ 0xFFFFFFFC#32 ∧ (3#5 : Reg) ≠ 0#5 := by decide

theorem test_witness_SyscallAlwaysRaises : (0x03FFFFCC#32 &&& 0xFC00003F#32) = 0x0000000C#32 ∧
    (testState 0x03FFFFCC 1 2).status = .running ∧ (testState 0x03FFFFCC 1 2).params.trapEntry = .endRun ∧
    (testState 0x03FFFFCC 1 2).fetch = some 0x03FFFFCC ∧ decode 0x03FFFFCC = .ok (.syscall 0xFFFFF) :=
  ⟨by decide, rfl, rfl, rfl, rfl⟩

theorem test_witness_InstructionsRaiseExactlyByTheTable :
    (Instr.add 3 1 2).raises (testState 0 0x7FFFFFFF 1) = some .integerOverflow ∧
    (Instr.syscall 0).raises (testState 0 1 2) = some .systemCall ∧
    (Instr.addu 3 1 2).raises (testState 0 0x7FFFFFFF 1) = none ∧ (testState 0 0x7FFFFFFF 1).status = .running := by
  decide

theorem test_witness_TrappedStateIsStateBeforeInstruction : (testState 0x0000000C 1 2).status = .running ∧
    (testState 0x0000000C 1 2).params.trapEntry = .endRun ∧
    step (testState 0x0000000C 1 2) = .next (after (testState 0x0000000C 1 2)) ∧
    (after (testState 0x0000000C 1 2)).status = .trapped .systemCall 0x1000 := ⟨rfl, rfl, rfl, rfl⟩

/-- A handler, with EXL clear and with EXL set, with BEV set and with BEV clear. -/
theorem test_witness_HandlerEntryAndReturn :
    (handlerState (testState 0x0000000C 1 2) false true).params.trapEntry = .handler ∧
    (Instr.syscall 0).raises (handlerState (testState 0x0000000C 1 2) false true) = some .systemCall ∧
    (handlerState (testState 0x0000000C 1 2) false true).cp0.statusExl = false ∧
    (handlerState (testState 0x00221820 0x7FFFFFFF 1) true false).params.trapEntry = .handler ∧
    (Instr.add 3 1 2).raises (handlerState (testState 0x00221820 0x7FFFFFFF 1) true false) = some .integerOverflow ∧
    (handlerState (testState 0x00221820 0x7FFFFFFF 1) true false).cp0.statusExl = true := by decide

/-- The last pc from which it may advance; a raising instruction. -/
theorem test_witness_PcAdvancesUnlessRaising :
    (Instr.addu 3 1 2).raises { testState 0 1 2 with pc := 0xFFFFFFF8 } = none ∧
    ({ testState 0 1 2 with pc := 0xFFFFFFF8 } : State).pc ≠ 0xFFFFFFFC#32 ∧
    (Instr.sub 3 1 2).raises (testState 0 0x80000000 1) = some .integerOverflow ∧
    (testState 0 0x80000000 1).params.trapEntry = .endRun := by decide

theorem test_witness_PcWrapIsRefused : (topState 0x00221821 1 2).pc = 0xFFFFFFFC#32 ∧
    (Instr.addu 3 1 2).raises (topState 0x00221821 1 2) = none ∧
    (Instr.syscall 0).raises (topState 0x0000000C 1 2) = some .systemCall ∧
    (topState 0x0000000C 1 2).params.trapEntry = .endRun := by decide

/-- The five outcomes of a step. -/
theorem test_witness_StepTestsInOrder : State.reset.status = .running ∧ State.reset.fetch = none ∧
    (testState 0x8C220000 1 2).fetch = some 0x8C220000 ∧ (∀ i, decode 0x8C220000 ≠ .ok i) ∧
    (testState 0x0000000C 1 2).fetch = some 0x0000000C ∧ decode 0x0000000C = .ok (.syscall 0) ∧
    (topState 0x00221821 1 2).fetch = some 0x00221821 ∧ decode 0x00221821 = .ok (.addu 3 1 2) ∧
    (Instr.addu 3 1 2).raises (topState 0x00221821 1 2) = none ∧
    (testState 0x00221821 1 2).fetch = some 0x00221821 ∧ (testState 0x00221821 1 2).pc ≠ 0xFFFFFFFC#32 :=
  ⟨rfl, rfl, rfl, fun _ h => (by cases h), rfl, rfl, rfl, rfl, rfl, rfl, by decide⟩

theorem test_witness_RegisterZeroReadsZeroAndDiscardsWrites : (Instr.add 0 1 2).writes = some 0#5 ∧
    ¬ InSigned32 (((testState 0 0x7FFFFFFF 1).readReg 1).toInt + ((testState 0 0x7FFFFFFF 1).readReg 2).toInt) ∧
    ¬ InSigned32 (((testState 0 0x7FFFFFFF 1).readReg 1).toInt + (1#16).toInt) ∧
    ¬ InSigned32 (((testState 0 0x80000000 1).readReg 1).toInt - ((testState 0 0x80000000 1).readReg 2).toInt) ∧
    (testState 0x70220002 3 4).pc ≠ 0xFFFFFFFC#32 := by decide

/-- Registers 1 and 2 alike, the other registers not. -/
theorem test_witness_OnlySourceRegistersAreRead :
    (∀ r ∈ (Instr.add 3 1 2).reads, State.readReg { testState 0x00221820 5 6 with
      gpr := ((Vector.replicate 31 9#32).set 0 5#32).set 1 6#32 } r = (testState 0x00221820 5 6).readReg r) ∧
    exec (.add 3 1 2) (testState 0x00221820 5 6) = .next (after (testState 0x00221820 5 6)) :=
  ⟨by decide, rfl⟩

theorem test_witness_HiAndLoAreNeverRead :
    exec (.add 3 1 2) (testState 0x00221820 5 6) = .next (after (testState 0x00221820 5 6)) ∧
    (Instr.add 3 1 2).writesHiLo = false ∧
    exec (.mult 1 2) (testState 0x00220018 5 6) = .next (after (testState 0x00220018 5 6)) ∧
    (Instr.mult 1 2).writesHiLo = true ∧ (testState 0x00220018 5 6).pc ≠ 0xFFFFFFFC#32 := ⟨rfl, rfl, rfl, rfl, by decide⟩

theorem test_witness_RegisterInstructionsFrame : (Instr.ori 2 1 0x8765).writes ≠ none ∧
    (Instr.ori 2 1 0x8765).writesHiLo = false ∧ (Instr.ori 2 1 0x8765).raises (testState 0x34228765 5 6) = none ∧
    exec (.ori 2 1 0x8765) (testState 0x34228765 5 6) = .next (after (testState 0x34228765 5 6)) :=
  ⟨by decide, rfl, rfl, rfl⟩

theorem test_witness_MultiplyDivideFrame : (Instr.mul 3 1 2).writesHiLo = true ∧
    exec (.mul 3 1 2) (testState 0x70221802 5 6) = .next (after (testState 0x70221802 5 6)) ∧
    (testState 0x70221802 5 6).status = .running := ⟨rfl, rfl, rfl⟩

theorem test_witness_ProgramTextNeverChanges :
    step (testState 0x00221820 5 6) = .next (after (testState 0x00221820 5 6)) := rfl

/-- Two words, and their launch at `entry`. -/
def twoWords : Program := [(0x1000#32, 0x34011234#32), (0x1004#32, 0x0000000C#32)]

def twoWordsAt (entry : Word) : State := State.launch twoWords entry Params.default (Vector.replicate 31 7) 8 9

theorem test_twoWords_aligned : ∀ e ∈ twoWords, Aligned e.1 := by simp [twoWords, Aligned]

/-- The pc at the second word, and past it. -/
theorem test_witness_FetchReadsTheProgramMap : (∀ e ∈ twoWords, Aligned e.1) ∧
    (twoWordsAt 0x1004).mem = Program.toMemory (twoWordsAt 0x1004).params.bigEndian twoWords ∧
    (twoWordsAt 0x1004).status = .running ∧ twoWords.lookup (twoWordsAt 0x1004).pc = some 0x0000000C ∧
    (twoWordsAt 0x1008).mem = Program.toMemory (twoWordsAt 0x1008).params.bigEndian twoWords ∧
    (twoWordsAt 0x1008).status = .running ∧ twoWords.lookup (twoWordsAt 0x1008).pc = none :=
  ⟨test_twoWords_aligned, rfl, rfl, rfl, rfl, rfl, rfl⟩

theorem test_witness_ByteOrderIsUnobservable : Aligned (testState 0 5 6).pc ∧
    step ((testState 0 5 6).withFetchWord 32 0x00221820) =
      .next (after ((testState 0 5 6).withFetchWord 32 0x00221820)) := ⟨by decide, rfl⟩

/-- The state after reset meets the invariant, and an instruction can be placed there. -/
theorem test_witness_PlacedInstructionRunsNext : Aligned State.reset.pc ∧ State.reset.mem.wf ∧
    State.reset.status = .running ∧ Aligned State.reset.cp0.epc ∧ Aligned State.reset.cp0.ebase ∧
    decodeTableWord 32 0x00221820 = some (.add 3 1 2) := ⟨by decide, by decide, rfl, by decide, by decide, rfl⟩

/-- A state of a run, its program in memory, and the step from it. -/
theorem test_witness_StepKeepsInvariant : (testState 0x0000000C 5 6).Inv ∧
    step (testState 0x0000000C 5 6) = .next (after (testState 0x0000000C 5 6)) :=
  ⟨⟨by decide, by decide, fun _ _ h => (by cases h), by decide, by decide⟩, rfl⟩

theorem test_witness_InvariantHoldsAtLaunch : (∀ e ∈ twoWords, Aligned e.1) ∧ Aligned 0xFFFFFFFC :=
  ⟨test_twoWords_aligned, by decide⟩

theorem test_witness_LaunchStateIsAsGiven : (∀ e ∈ twoWords, Aligned e.1) ∧ Aligned 0x1000 ∧ ¬ Aligned 0x1001 ∧
    ¬ Aligned 0x1002 ∧ ¬ Aligned 0x1003 := ⟨test_twoWords_aligned, by decide⟩

theorem test_witness_EveryRunEnds : (testState 0x00221820 5 6).params.trapEntry = .endRun := rfl

/-- A run of two steps that traps at its second word. -/
theorem test_witness_TrappedRunStoppedAtRaisingInstruction : (twoWordsAt 0x1000).status = .running ∧
    (twoWordsAt 0x1000).params.trapEntry = .endRun ∧
    (runFor 2 (twoWordsAt 0x1000)).status = .trapped .systemCall 0x1004 := ⟨rfl, rfl, rfl⟩
end

section
/-! What a fetch and a step do where no program word stands, and the state after reset. -/

namespace Sys2Proof.Machine

/-- R40, R41: memory that holds no byte holds no word. -/
@[simp] theorem Memory.fetchWord_nil (be : Bool) (a : Nat) : Memory.fetchWord [] be a = none := by
  unfold Memory.fetchWord
  split
  · simp [Memory.read]
  · rfl

theorem fetch_of_mem_nil {s : State} (h : s.mem = []) : s.fetch = none := by
  rw [State.fetch, h, Memory.fetchWord_nil]

/-- R42: a fetch outside the program refuses the run. -/
theorem step_of_fetch_none {s : State} (hs : s.status = .running) (hf : s.fetch = none) :
    step s = .next (s.refuse .fetchOutsideProgram) := by
  rw [step_running hs, hf]

/-- Settles O56: reset places no program, so the first fetch finds no word and the run is refused. -/
theorem resetIsALaunchWithNoProgram : Obligations.ResetIsALaunchWithNoProgram := by
  have no_word : State.reset.fetch = none := fetch_of_mem_nil rfl
  exact ⟨rfl, readReg_zero _, rfl, rfl, step_of_fetch_none rfl no_word⟩

end Sys2Proof.Machine
end

section
/-! The invariant of a run: it holds after reset, and every step keeps it (R26, R44, R212). -/

namespace Sys2Proof.Machine

/-! ### The addresses the invariant speaks of -/

theorem aligned_add {a b : Word} (ha : Aligned a) (hb : Aligned b) : Aligned (a + b) := by
  unfold Aligned at *
  rw [BitVec.toNat_add]
  omega

theorem Cp0.aligned_vector {c : Cp0} (h : Aligned c.ebase) : Aligned c.vector := by
  unfold Cp0.vector
  split
  · decide
  · exact aligned_add h (by decide)

theorem Cp0.aligned_epc_enter {c : Cp0} {pc : Word} (hepc : Aligned c.epc) (hpc : Aligned pc) (cause : ExcCause) :
    Aligned (c.enter cause pc).epc := by
  unfold Cp0.enter
  split
  · exact hepc
  · exact hpc

/-! ### What each way to end a step keeps -/

theorem inv_refuse {s : State} (h : s.Inv) (e : RefusedReason) : (s.refuse e).Inv := by
  obtain ⟨hpc, hmem, -, hepc, hebase⟩ := h
  exact ⟨hpc, hmem, fun _ _ hst => (by cases hst), hepc, hebase⟩

theorem inv_takeException {s : State} (h : s.Inv) (hrun : s.status = .running) (c : ExcCause) :
    (s.takeException c).Inv := by
  obtain ⟨hpc, hmem, -, hepc, hebase⟩ := h
  cases htrap : s.params.trapEntry with
  | endRun =>
    rw [takeException_endRun htrap]
    exact ⟨hpc, hmem, fun _ _ hst => by cases hst; rfl, hepc, hebase⟩
  | handler =>
    rw [takeException_handler htrap]
    have still_running : ∀ c a, s.status ≠ .trapped c a := by simp [hrun]
    exact ⟨Cp0.aligned_vector hebase, hmem, fun c a hst => absurd hst (still_running c a),
      Cp0.aligned_epc_enter hepc hpc c, hebase⟩

/-- An instruction that wrote none of the fixed parts and advances the pc keeps the invariant of a running state. -/
theorem inv_setPc_of_sameFixed {s t : State} (h : s.Inv) (hrun : s.status = .running) (hfix : SameFixed s t) :
    (t.setPc (s.pc + 4#32)).Inv := by
  obtain ⟨hpc, hmem, -, hepc, hebase⟩ := h
  obtain ⟨hst, hm, -, hcp0⟩ := hfix
  refine ⟨aligned_add hpc (by decide), ?_, ?_, ?_, ?_⟩
  · simpa [hm] using hmem
  · simp [hst, hrun]
  · simpa [hcp0] using hepc
  · simpa [hcp0] using hebase

/-- R26, R212: an instruction run in a running state keeps the invariant. -/
theorem inv_exec {i : Instr} {s t : State} (h : s.Inv) (hrun : s.status = .running) (hexec : exec i s = .next t) :
    t.Inv := by
  rcases exec_cases i s with ⟨c, hraise⟩ | ⟨w, hfinish, hfix⟩
  · cases hraise.symm.trans hexec
    exact inv_takeException h hrun c
  · rcases finish_cases s w with ⟨-, hwrap⟩ | ⟨-, hdone⟩
    · cases hwrap.symm.trans (hfinish.symm.trans hexec)
      exact inv_refuse h _
    · cases hdone.symm.trans (hfinish.symm.trans hexec)
      exact inv_setPc_of_sameFixed h hrun hfix

/-! ### Which states step -/

/-- Every instruction answers a next state in every state. -/
theorem exec_next (i : Instr) (s : State) : ∃ t, exec i s = .next t := by
  rcases exec_cases i s with ⟨c, hraise⟩ | ⟨w, hfinish, -⟩
  · exact ⟨_, hraise⟩
  · rcases finish_cases s w with ⟨-, hwrap⟩ | ⟨-, hdone⟩
    · exact ⟨_, hfinish.trans hwrap⟩
    · exact ⟨_, hfinish.trans hdone⟩

/-- R33: a state that is not Running has no next step. -/
theorem running_of_step {s t : State} (h : step s = .next t) : s.status = .running := by
  unfold step at h
  split at h
  · cases h
  · cases h
  · assumption

/-- Settles O42: each way a step of a Running state can go answers a next state. -/
theorem onlyRunningStatesStep : Obligations.OnlyRunningStatesStep := by
  intro s
  refine ⟨fun ⟨t, ht⟩ => running_of_step ht, fun hrun => ?_⟩
  rcases step_cases hrun with ⟨-, h⟩ | ⟨w, e, -, -, h⟩ | ⟨w, i, -, -, h⟩
  · exact ⟨_, h⟩
  · exact ⟨_, h⟩
  · rw [h]
    exact exec_next i s

/-- Settles O52: a refusal, an exception and a completed instruction each keep the invariant. -/
theorem stepKeepsInvariant : Obligations.StepKeepsInvariant := by
  intro s t hinv hstep
  have hrun := running_of_step hstep
  rcases step_cases hrun with ⟨-, h⟩ | ⟨w, e, -, -, h⟩ | ⟨w, i, -, -, h⟩
  · cases h.symm.trans hstep
    exact inv_refuse hinv _
  · cases h.symm.trans hstep
    exact inv_refuse hinv _
  · exact inv_exec hinv hrun (h.symm.trans hstep)

/-- Settles O53: the reset values of the pc and of CP0 are multiples of 4, and no byte is placed. -/
theorem invariantHoldsAtReset : Obligations.InvariantHoldsAtReset :=
  ⟨by decide, wf_reset, fun _ _ hst => (by cases hst), by decide, by decide⟩

end Sys2Proof.Machine
end

section
/-! The overflow test of R100 against the exact integer, the writes of an instruction as data, and how an instruction
acts on its inputs: the one case analysis of `exec` the statements of the state family rest on. -/

namespace Sys2Proof.Machine

/-! ### The overflow test (R100) -/

/-- On an integer of 33 signed bits, bits 32 and 31 differ exactly where it does not fit 32. -/
theorem overflows_ofInt {n : Int} (lower : -4294967296 ≤ n) (upper : n < 4294967296) :
    overflows (BitVec.ofInt 33 n) = true ↔ ¬ InSigned32 n := by
  have bits : (BitVec.ofInt 33 n).toNat = (n % 8589934592).toNat := by simp
  rw [overflows, bne_iff_ne, ← BitVec.testBit_toNat, ← BitVec.testBit_toNat, bits, Nat.testBit_eq_decide_div_mod_eq,
    Nat.testBit_eq_decide_div_mod_eq, Ne, decide_eq_decide]
  omega

theorem inSigned32_toInt (a : Word) : InSigned32 a.toInt :=
  ⟨BitVec.le_toInt a, Int.le_of_lt_add_one BitVec.toInt_lt⟩

theorem overflows_addTemp (a b : Word) : overflows (addTemp a b) = true ↔ ¬ InSigned32 (a.toInt + b.toInt) := by
  obtain ⟨ha, ha'⟩ := inSigned32_toInt a
  obtain ⟨hb, hb'⟩ := inSigned32_toInt b
  rw [addTemp, BitVec.toInt_signExtend_of_le (by decide), BitVec.toInt_signExtend_of_le (by decide)]
  exact overflows_ofInt (by omega) (by omega)

theorem overflows_subTemp (a b : Word) : overflows (subTemp a b) = true ↔ ¬ InSigned32 (a.toInt - b.toInt) := by
  obtain ⟨ha, ha'⟩ := inSigned32_toInt a
  obtain ⟨hb, hb'⟩ := inSigned32_toInt b
  rw [subTemp, BitVec.toInt_signExtend_of_le (by decide), BitVec.toInt_signExtend_of_le (by decide)]
  exact overflows_ofInt (by omega) (by omega)

@[simp] theorem toInt_simm (imm : Imm16) : (simm imm).toInt = imm.toInt := BitVec.toInt_signExtend_of_le (by decide)

/-! ### The writes of an instruction as data -/

/-- What an instruction that does not raise writes (R22, R25). -/
inductive WriteSet where
  | reg (d : Reg) (v : Word)
  | hiLo (hi lo : Word)
  | drawLoHi
  /-- MUL: a register, and HI and LO drawn (R145). -/
  | regDrawHiLo (d : Reg) (v : Word)

/-- The general register written. -/
def WriteSet.dest (w : WriteSet) : Option Reg :=
  match w with
  | .reg d _ => some d
  | .hiLo _ _ => none
  | .drawLoHi => none
  | .regDrawHiLo d _ => some d

/-- HI and LO are written. -/
def WriteSet.setsHiLo (w : WriteSet) : Bool :=
  match w with
  | .reg _ _ => false
  | .hiLo _ _ | .drawLoHi | .regDrawHiLo _ _ => true

/-- The state with the writes made. -/
def WriteSet.apply (w : WriteSet) (s : State) : State :=
  match w with
  | .reg d v => s.writeReg d v
  | .hiLo hi lo => s.setHiLo hi lo
  | .drawLoHi => s.drawLoHi
  | .regDrawHiLo d v => (s.writeReg d v).drawHiLo

theorem sameFixed_apply (w : WriteSet) (s : State) : SameFixed s (w.apply s) := by
  cases w with
  | reg d v => exact sameFixed_writeReg s d v
  | hiLo hi lo => exact sameFixed_setHiLo s hi lo
  | drawLoHi => exact sameFixed_drawLoHi s
  | regDrawHiLo d v => exact sameFixed_writeReg_draw s d v

theorem readReg_writeReg_of_ne (s : State) {d r : Reg} (v : Word) (h : d ≠ r) :
    (s.writeReg d v).readReg r = s.readReg r := by
  rw [readReg_writeReg, if_neg (fun ⟨hr, _⟩ => h hr.symm)]

/-- A register that is not the destination keeps its value. -/
theorem readReg_apply_of_ne {w : WriteSet} {r : Reg} (h : w.dest ≠ some r) (s : State) :
    (w.apply s).readReg r = s.readReg r := by
  have apart : ∀ {d}, some d ≠ some r → d ≠ r := fun hd e => hd (congrArg some e)
  cases w with
  | reg d v => exact readReg_writeReg_of_ne s v (apart h)
  | hiLo hi lo => rfl
  | drawLoHi => rfl
  | regDrawHiLo d v => exact readReg_writeReg_of_ne s v (apart h)

/-- What a destination holds afterwards does not depend on the state written to. -/
theorem readReg_writeReg_dest_congr (s t : State) (d : Reg) (v : Word) :
    (s.writeReg d v).readReg d = (t.writeReg d v).readReg d := by
  by_cases hd : d = 0#5
  · simp [hd]
  · simp [readReg_writeReg, hd]

theorem readReg_apply_dest_congr {w : WriteSet} {r : Reg} (h : w.dest = some r) (s t : State) :
    (w.apply s).readReg r = (w.apply t).readReg r := by
  cases w with
  | reg d v => obtain rfl := Option.some.inj h; exact readReg_writeReg_dest_congr s t d v
  | hiLo hi lo => cases h
  | drawLoHi => cases h
  | regDrawHiLo d v => obtain rfl := Option.some.inj h; exact readReg_writeReg_dest_congr s t d v

/-- Writes that leave HI and LO alone draw nothing. -/
theorem hiLo_apply_of_not {w : WriteSet} (h : w.setsHiLo = false) (s : State) :
    (w.apply s).hi = s.hi ∧ (w.apply s).lo = s.lo ∧ (w.apply s).draws = s.draws := by
  cases w with
  | reg d v => exact ⟨writeReg_hi s d v, writeReg_lo s d v, writeReg_draws s d v⟩
  | hiLo hi lo => cases h
  | drawLoHi => cases h
  | regDrawHiLo d v => cases h

/-! ### The writes made in a state with other registers, or with another HI and LO -/

theorem writeReg_withGpr (s : State) (gpr : Vector Word 31) (d : Reg) (v : Word) :
    { State.writeReg { s with gpr := gpr } d v with gpr := (s.writeReg d v).gpr } = s.writeReg d v := by
  unfold State.writeReg
  split <;> rfl

theorem apply_withGpr (w : WriteSet) (s : State) (gpr : Vector Word 31) :
    { w.apply { s with gpr := gpr } with gpr := (w.apply s).gpr } = w.apply s := by
  cases w with
  | reg d v => exact writeReg_withGpr s gpr d v
  | hiLo hi lo => rfl
  | drawLoHi => rfl
  | regDrawHiLo d v => exact congrArg State.drawHiLo (writeReg_withGpr s gpr d v)

theorem writeReg_withHiLo (s : State) (hi lo : Word) (d : Reg) (v : Word) :
    State.writeReg { s with hi := hi, lo := lo } d v = { s.writeReg d v with hi := hi, lo := lo } := by
  unfold State.writeReg
  split <;> rfl

theorem apply_withHiLo (w : WriteSet) (s : State) (hi lo : Word) :
    { w.apply { s with hi := hi, lo := lo } with hi := (w.apply s).hi, lo := (w.apply s).lo } = w.apply s := by
  cases w with
  | reg d v =>
    rw [WriteSet.apply, writeReg_withHiLo]
    rfl
  | hiLo hi lo => rfl
  | drawLoHi => rfl
  | regDrawHiLo d v =>
    rw [WriteSet.apply, writeReg_withHiLo]
    rfl

/-- Writes that set HI and LO leave the same in them, whatever they held. -/
theorem hiLo_apply_withHiLo {w : WriteSet} (h : w.setsHiLo = true) (s : State) (hi lo : Word) :
    (w.apply { s with hi := hi, lo := lo }).hi = (w.apply s).hi ∧
      (w.apply { s with hi := hi, lo := lo }).lo = (w.apply s).lo := by
  cases w with
  | reg d v => cases h
  | hiLo hi lo => exact ⟨rfl, rfl⟩
  | drawLoHi => exact ⟨rfl, rfl⟩
  | regDrawHiLo d v => simp [WriteSet.apply, State.drawn]

/-! ### DIV and DIVU, case by case -/

theorem execDiv_zero {rs rt : Reg} {s : State} (zero : (s.readReg rt).toInt = 0) :
    execDiv rs rt s = s.finish s.drawLoHi := if_pos zero

theorem execDiv_overflow {rs rt : Reg} {s : State}
    (extreme : (s.readReg rs).toInt = -2147483648 ∧ (s.readReg rt).toInt = -1) :
    execDiv rs rt s = s.finish s.divOverflowResult := by
  have nonzero : ¬ (s.readReg rt).toInt = 0 := by omega
  exact (if_neg nonzero).trans (if_pos extreme)

theorem execDiv_exact {rs rt : Reg} {s : State} (nonzero : ¬ (s.readReg rt).toInt = 0)
    (fits : ¬ ((s.readReg rs).toInt = -2147483648 ∧ (s.readReg rt).toInt = -1)) :
    execDiv rs rt s = s.finish (s.setHiLo (BitVec.ofInt 32 (tmod (s.readReg rs).toInt (s.readReg rt).toInt))
      (BitVec.ofInt 32 (tdiv (s.readReg rs).toInt (s.readReg rt).toInt))) :=
  (if_neg nonzero).trans (if_neg fits)

theorem divOverflowResult_drawn {s : State} (h : s.params.divOverflow = none) : s.divOverflowResult = s.drawLoHi := by
  unfold State.divOverflowResult; rw [h]

theorem divOverflowResult_given {s : State} {hi lo : Word} (h : s.params.divOverflow = some (hi, lo)) :
    s.divOverflowResult = s.setHiLo hi lo := by
  unfold State.divOverflowResult; rw [h]

theorem execDivu_zero {rs rt : Reg} {s : State} (zero : (s.readReg rt).toNat = 0) :
    execDivu rs rt s = s.finish s.drawLoHi := if_pos zero

theorem execDivu_exact {rs rt : Reg} {s : State} (nonzero : ¬ (s.readReg rt).toNat = 0) :
    execDivu rs rt s = s.finish (s.setHiLo
      (BitVec.ofNat 32 ((s.readReg rs).toNat - (s.readReg rt).toNat * ((s.readReg rs).toNat / (s.readReg rt).toNat)))
      (BitVec.ofNat 32 ((s.readReg rs).toNat / (s.readReg rt).toNat))) :=
  if_neg nonzero

/-! ### How an instruction acts on its inputs -/

/-- `t` holds what `s` holds in everything `i` reads: its source registers (R22) and `div_overflow` (R142). -/
structure SameInputs (i : Instr) (s t : State) : Prop where
  reads : ∀ r ∈ i.reads, t.readReg r = s.readReg r
  divOverflow : t.params.divOverflow = s.params.divOverflow

theorem SameInputs.refl (i : Instr) (s : State) : SameInputs i s s := ⟨fun _ _ => rfl, rfl⟩

theorem SameInputs.one {i : Instr} {s t : State} {r : Reg} (h : SameInputs i s t) (row : i.reads = [r]) :
    t.readReg r = s.readReg r :=
  h.reads r (by simp [row])

theorem SameInputs.two {i : Instr} {s t : State} {r q : Reg} (h : SameInputs i s t) (row : i.reads = [r, q]) :
    t.readReg r = s.readReg r ∧ t.readReg q = s.readReg q :=
  ⟨h.reads r (by simp [row]), h.reads q (by simp [row])⟩

/-- How `i` acts in `s`, and in every state with the same inputs: it raises one exception, or makes one set of writes. -/
inductive Acts (i : Instr) (s : State) : Prop where
  | raises (c : ExcCause) (acts : ∀ t, SameInputs i s t → i.raises t = some c ∧ exec i t = t.raise c)
  | writes (w : WriteSet) (dest : w.dest = i.writes) (hiLo : w.setsHiLo = i.writesHiLo)
      (acts : ∀ t, SameInputs i s t → i.raises t = none ∧ exec i t = t.finish (w.apply t))

/-- An instruction that never raises and writes one register, its value a function of the inputs. -/
theorem acts_of_reg {i : Instr} {s : State} (d : Reg) (val : State → Word) (dest : i.writes = some d)
    (hiLo : i.writesHiLo = false) (never : ∀ t, i.raises t = none)
    (ends : ∀ t, exec i t = t.finish (t.writeReg d (val t))) (inputs : ∀ t, SameInputs i s t → val t = val s) :
    Acts i s :=
  .writes (.reg d (val s)) dest.symm hiLo.symm fun t ht => ⟨never t, by rw [ends, inputs t ht]; rfl⟩

/-- ADD, ADDI and SUB: the exact result and the overflow test say the same (R100). -/
theorem acts_of_trapping {i : Instr} {s : State} (d : Reg) (value : State → Int) (temp : State → BitVec 33)
    (dest : i.writes = some d) (hiLo : i.writesHiLo = false) (raises : ∀ t, i.raises t = overflowOf (value t))
    (test : ∀ t, overflows (temp t) = true ↔ ¬ InSigned32 (value t))
    (ends : ∀ t, exec i t = t.finishTrapping d (temp t)) (inputs : ∀ t, SameInputs i s t → temp t = temp s) :
    Acts i s := by
  by_cases overflow : overflows (temp s) = true
  · refine .raises .integerOverflow fun t ht => ?_
    rw [← inputs t ht] at overflow
    exact ⟨by rw [raises, overflowOf, if_neg ((test t).1 overflow)],
      by rw [ends, State.finishTrapping, if_pos overflow]⟩
  · refine .writes (.reg d (tempResult (temp s))) dest.symm hiLo.symm fun t ht => ?_
    rw [← inputs t ht] at overflow ⊢
    have fits : InSigned32 (value t) := Classical.not_not.1 (mt (test t).2 overflow)
    exact ⟨by rw [raises, overflowOf, if_pos fits], by rw [ends, State.finishTrapping, if_neg overflow]; rfl⟩

/-- MULT and MULTU: HI and LO take a product that is a function of the inputs. -/
theorem acts_of_product {i : Instr} {s : State} (prod : State → BitVec 64) (dest : i.writes = none)
    (hiLo : i.writesHiLo = true) (never : ∀ t, i.raises t = none)
    (ends : ∀ t, exec i t = t.finish (t.setProduct (prod t))) (inputs : ∀ t, SameInputs i s t → prod t = prod s) :
    Acts i s :=
  .writes (.hiLo ((prod s).extractLsb' 32 32) ((prod s).extractLsb' 0 32)) dest.symm hiLo.symm
    fun t ht => ⟨never t, by rw [ends, inputs t ht]; rfl⟩

/-- DIV: its inputs tell the cases of R143 apart, and each makes one set of writes. -/
theorem acts_div (rs rt : Reg) (s : State) : Acts (.div rs rt) s := by
  by_cases zero : (s.readReg rt).toInt = 0
  · refine .writes .drawLoHi rfl rfl fun t ht => ⟨rfl, ?_⟩
    obtain ⟨-, hrt⟩ := ht.two rfl
    exact execDiv_zero (hrt ▸ zero)
  by_cases extreme : (s.readReg rs).toInt = -2147483648 ∧ (s.readReg rt).toInt = -1
  · have ends : ∀ t, SameInputs (.div rs rt) s t → exec (.div rs rt) t = t.finish t.divOverflowResult := by
      intro t ht
      obtain ⟨hrs, hrt⟩ := ht.two rfl
      rw [← hrs, ← hrt] at extreme
      exact execDiv_overflow extreme
    cases given : s.params.divOverflow with
    | none =>
      refine .writes .drawLoHi rfl rfl fun t ht => ⟨rfl, ?_⟩
      rw [ends t ht, divOverflowResult_drawn (ht.divOverflow.trans given)]
      rfl
    | some pair =>
      refine .writes (.hiLo pair.1 pair.2) rfl rfl fun t ht => ⟨rfl, ?_⟩
      rw [ends t ht, divOverflowResult_given (ht.divOverflow.trans given)]
      rfl
  · refine .writes (.hiLo (BitVec.ofInt 32 (tmod (s.readReg rs).toInt (s.readReg rt).toInt))
      (BitVec.ofInt 32 (tdiv (s.readReg rs).toInt (s.readReg rt).toInt))) rfl rfl fun t ht => ⟨rfl, ?_⟩
    obtain ⟨hrs, hrt⟩ := ht.two rfl
    rw [← hrs, ← hrt] at extreme ⊢
    exact execDiv_exact (hrt ▸ zero) extreme

/-- DIVU: a zero divisor draws, every other divides (R144, R148). -/
theorem acts_divu (rs rt : Reg) (s : State) : Acts (.divu rs rt) s := by
  by_cases zero : (s.readReg rt).toNat = 0
  · refine .writes .drawLoHi rfl rfl fun t ht => ⟨rfl, ?_⟩
    obtain ⟨-, hrt⟩ := ht.two rfl
    exact execDivu_zero (hrt ▸ zero)
  · refine .writes (.hiLo (BitVec.ofNat 32 ((s.readReg rs).toNat - (s.readReg rt).toNat *
      ((s.readReg rs).toNat / (s.readReg rt).toNat))) (BitVec.ofNat 32 ((s.readReg rs).toNat / (s.readReg rt).toNat)))
      rfl rfl fun t ht => ⟨rfl, ?_⟩
    obtain ⟨hrs, hrt⟩ := ht.two rfl
    rw [← hrs, ← hrt]
    exact execDivu_exact (hrt ▸ zero)

/-- Every instruction, in every state, acts on its inputs alone. -/
theorem acts (i : Instr) (s : State) : Acts i s := by
  cases i
  case add rd rs rt =>
    refine acts_of_trapping _ _ _ rfl rfl (fun _ => rfl) (fun _ => overflows_addTemp _ _) (fun _ => rfl) fun t ht => ?_
    obtain ⟨hrs, hrt⟩ := ht.two rfl
    rw [hrs, hrt]
  case sub rd rs rt =>
    refine acts_of_trapping _ _ _ rfl rfl (fun _ => rfl) (fun _ => overflows_subTemp _ _) (fun _ => rfl) fun t ht => ?_
    obtain ⟨hrs, hrt⟩ := ht.two rfl
    rw [hrs, hrt]
  case addi rt rs imm =>
    refine acts_of_trapping _ _ _ rfl rfl (fun _ => rfl) (fun t => ?_) (fun _ => rfl) fun t ht => ?_
    · rw [← toInt_simm]
      exact overflows_addTemp _ _
    · rw [ht.one rfl]
  case syscall => exact .raises .systemCall fun _ _ => ⟨rfl, rfl⟩
  case div rs rt => exact acts_div rs rt s
  case divu rs rt => exact acts_divu rs rt s
  case mult | multu =>
    refine acts_of_product _ rfl rfl (fun _ => rfl) (fun _ => rfl) fun t ht => ?_
    obtain ⟨hrs, hrt⟩ := ht.two rfl
    rw [hrs, hrt]
  case mul rd rs rt =>
    refine .writes (.regDrawHiLo rd (BitVec.ofInt 32 ((s.readReg rs).toInt * (s.readReg rt).toInt))) rfl rfl
      fun t ht => ⟨rfl, ?_⟩
    obtain ⟨hrs, hrt⟩ := ht.two rfl
    rw [← hrs, ← hrt]
    rfl
  case addu | subu | and | or | xor | nor | slt | sltu =>
    refine acts_of_reg _ _ rfl rfl (fun _ => rfl) (fun _ => rfl) fun t ht => ?_
    obtain ⟨hrs, hrt⟩ := ht.two rfl
    rw [hrs, hrt]
  case addiu | andi | ori | xori | slti | sltiu | sll | sra | srl | nop | ssnop =>
    refine acts_of_reg _ _ rfl rfl (fun _ => rfl) (fun _ => rfl) fun t ht => ?_
    rw [ht.one rfl]

end Sys2Proof.Machine
end

section
/-! What an instruction leaves and what it does not touch: the pc (R27, R28), register 0 (R21), the frames (R22, R25) and
what its effect does not depend on. -/

namespace Sys2Proof.Machine

/-! ### The outcome of an instruction by the table of R210 -/

/-- What an instruction does in two states with the same inputs and the same pc: in both it takes the same exception, or
is refused at the last word, or makes the same set of writes. -/
theorem exec_cases_of_sameInputs {i : Instr} {s u t : State} (same : SameInputs i s u) (samePc : u.pc = s.pc)
    (h : exec i s = .next t) :
    (∃ c, i.raises s = some c ∧ t = s.takeException c ∧ exec i u = .next (u.takeException c)) ∨
    (i.raises s = none ∧ s.pc = Config.lastWord ∧ t = s.refuse .pcWrap ∧ exec i u = .next (u.refuse .pcWrap)) ∨
    (i.raises s = none ∧ s.pc ≠ Config.lastWord ∧ ∃ w : WriteSet, w.dest = i.writes ∧ w.setsHiLo = i.writesHiLo ∧
      t = (w.apply s).setPc (s.pc + 4#32) ∧ exec i u = .next ((w.apply u).setPc (s.pc + 4#32))) := by
  cases acts i s with
  | raises c acts =>
    obtain ⟨hr, hs⟩ := acts s (.refl i s)
    obtain ⟨-, hu⟩ := acts u same
    cases h.symm.trans hs
    exact .inl ⟨c, hr, rfl, hu⟩
  | writes w dest hiLo acts =>
    obtain ⟨hr, hs⟩ := acts s (.refl i s)
    obtain ⟨-, hu⟩ := acts u same
    by_cases hpc : s.pc = Config.lastWord
    · cases h.symm.trans (hs.trans (finish_wraps hpc _))
      exact .inr (.inl ⟨hr, hpc, rfl, hu.trans (finish_wraps (samePc.trans hpc) _)⟩)
    · cases h.symm.trans (hs.trans (finish_completes hpc _))
      rw [finish_completes (samePc ▸ hpc), samePc] at hu
      exact .inr (.inr ⟨hr, hpc, w, dest, hiLo, rfl, hu⟩)

/-- The state an instruction answers is one of three: an exception, the refusal at the last word, or its writes made. -/
theorem exec_next_cases {i : Instr} {s t : State} (h : exec i s = .next t) :
    (∃ c, i.raises s = some c ∧ t = s.takeException c) ∨
    (i.raises s = none ∧ s.pc = Config.lastWord ∧ t = s.refuse .pcWrap) ∨
    (i.raises s = none ∧ s.pc ≠ Config.lastWord ∧
      ∃ w : WriteSet, w.dest = i.writes ∧ w.setsHiLo = i.writesHiLo ∧ t = (w.apply s).setPc (s.pc + 4#32)) := by
  rcases exec_cases_of_sameInputs (.refl i s) rfl h with
    ⟨c, hr, ht, -⟩ | ⟨hr, hpc, ht, -⟩ | ⟨hr, hpc, w, dest, hiLo, ht, -⟩
  · exact .inl ⟨c, hr, ht⟩
  · exact .inr (.inl ⟨hr, hpc, ht⟩)
  · exact .inr (.inr ⟨hr, hpc, w, dest, hiLo, ht⟩)

theorem exec_of_raises {i : Instr} {s : State} {c : ExcCause} (h : i.raises s = some c) :
    exec i s = .next (s.takeException c) := by
  obtain ⟨t, ht⟩ := exec_next i s
  rcases exec_next_cases ht with ⟨c', hr, rfl⟩ | ⟨hr, -⟩ | ⟨hr, -⟩
  · cases hr.symm.trans h
    exact ht
  · cases hr.symm.trans h
  · cases hr.symm.trans h

/-- R27: off the last word an instruction that does not raise makes its writes and advances the pc. -/
theorem exec_completes {i : Instr} {s : State} (h : i.raises s = none) (off : s.pc ≠ Config.lastWord) :
    ∃ w : WriteSet, w.dest = i.writes ∧ w.setsHiLo = i.writesHiLo ∧
      exec i s = .next ((w.apply s).setPc (s.pc + 4#32)) := by
  obtain ⟨t, ht⟩ := exec_next i s
  rcases exec_next_cases ht with ⟨c, hr, -⟩ | ⟨-, hpc, -⟩ | ⟨-, -, w, dest, hiLo, rfl⟩
  · cases hr.symm.trans h
  · exact absurd hpc off
  · exact ⟨w, dest, hiLo, ht⟩

/-- R28: at the last word an instruction that does not raise is refused. -/
theorem exec_wraps {i : Instr} {s : State} (h : i.raises s = none) (top : s.pc = Config.lastWord) :
    exec i s = .next (s.refuse .pcWrap) := by
  obtain ⟨t, ht⟩ := exec_next i s
  rcases exec_next_cases ht with ⟨c, hr, -⟩ | ⟨-, -, rfl⟩ | ⟨-, hpc, -⟩
  · cases hr.symm.trans h
  · exact ht
  · exact absurd top hpc

/-- R212, R213: what `Raised` says holds of every exception. -/
theorem raised_takeException (s : State) (c : ExcCause) : Raised s (s.takeException c) c := by
  refine ⟨readReg_takeException s c, takeException_hi s c, takeException_lo s c, takeException_draws s c,
    ⟨fun a => by rw [takeException_mem], takeException_params s c⟩, fun htrap => ?_⟩
  rw [takeException_endRun htrap]
  exact ⟨rfl, rfl, rfl⟩

theorem exec_raised {i : Instr} {s : State} {c : ExcCause} (h : i.raises s = some c) :
    ∃ t, exec i s = .next t ∧ Raised s t c :=
  ⟨_, exec_of_raises h, raised_takeException s c⟩

/-! ### The frame of an instruction -/

section Frame

variable {i : Instr} {s t : State} (h : exec i s = .next t)
include h

/-- R22: of the general registers an instruction writes its destination at most. -/
theorem exec_readReg_of_ne {r : Reg} (hr : i.writes ≠ some r) : t.readReg r = s.readReg r := by
  rcases exec_next_cases h with ⟨c, -, rfl⟩ | ⟨-, -, rfl⟩ | ⟨-, -, w, dest, -, rfl⟩
  · exact readReg_takeException s c r
  · rfl
  · exact readReg_apply_of_ne (dest ▸ hr) s

/-- R40, R52: no instruction writes memory or a launch parameter. -/
theorem exec_mem_params : t.mem = s.mem ∧ t.params = s.params := by
  rcases exec_next_cases h with ⟨c, -, rfl⟩ | ⟨-, -, rfl⟩ | ⟨-, -, w, -, -, rfl⟩
  · exact ⟨takeException_mem s c, takeException_params s c⟩
  · exact ⟨rfl, rfl⟩
  · obtain ⟨-, hmem, hparams, -⟩ := sameFixed_apply w s
    exact ⟨hmem, hparams⟩

/-- R25: HI and LO are left alone by all but five instructions. -/
theorem exec_hiLo_of_not (hw : i.writesHiLo = false) : t.hi = s.hi ∧ t.lo = s.lo ∧ t.draws = s.draws := by
  rcases exec_next_cases h with ⟨c, -, rfl⟩ | ⟨-, -, rfl⟩ | ⟨-, -, w, -, hiLo, rfl⟩
  · exact ⟨takeException_hi s c, takeException_lo s c, takeException_draws s c⟩
  · exact ⟨rfl, rfl, rfl⟩
  · exact hiLo_apply_of_not (hiLo.trans hw) s

/-- An instruction that does not raise leaves CP0 alone, and its status is the old one or a refusal. -/
theorem exec_cp0_status_of_not_raises (hr : i.raises s = none) :
    t.cp0 = s.cp0 ∧ (t.status = s.status ∨ t.status = .refused .pcWrap) := by
  rcases exec_next_cases h with ⟨c, hc, -⟩ | ⟨-, -, rfl⟩ | ⟨-, -, w, -, -, rfl⟩
  · cases hr.symm.trans hc
  · exact ⟨rfl, .inr rfl⟩
  · obtain ⟨hstatus, -, -, hcp0⟩ := sameFixed_apply w s
    exact ⟨hcp0, .inl hstatus⟩

end Frame

/-- R210: none of the five that write HI and LO raises. -/
theorem not_raises_of_writesHiLo {i : Instr} (h : i.writesHiLo = true) (s : State) : i.raises s = none := by
  cases i
  case div | divu | mult | multu | mul => rfl
  all_goals cases h

/-! ### An exception in a state with other registers, or with another HI and LO -/

theorem takeException_withGpr (s : State) (gpr : Vector Word 31) (c : ExcCause) :
    { State.takeException { s with gpr := gpr } c with gpr := (s.takeException c).gpr } = s.takeException c := by
  unfold State.takeException
  cases s.params.trapEntry <;> rfl

theorem takeException_withHiLo (s : State) (hi lo : Word) (c : ExcCause) :
    { State.takeException { s with hi := hi, lo := lo } c with
      hi := (s.takeException c).hi, lo := (s.takeException c).lo } = s.takeException c := by
  unfold State.takeException
  cases s.params.trapEntry <;> rfl

/-! ### The statements -/

/-- Settles O39: the writes of a completed instruction leave the status, and R212 leaves the pc. -/
theorem pcAdvancesUnlessRaising : Obligations.PcAdvancesUnlessRaising := by
  intro i s
  refine ⟨fun hr hpc => ?_, fun c hc htrap => ?_⟩
  · obtain ⟨w, -, -, hexec⟩ := exec_completes hr hpc
    obtain ⟨hstatus, -⟩ := sameFixed_apply w s
    exact ⟨_, hexec, rfl, hstatus⟩
  · exact ⟨_, exec_of_raises hc, by rw [takeException_endRun htrap]⟩

/-- Settles O40: the raise comes before the wrap, and the wrap before the writes (R216). -/
theorem pcWrapIsRefused : Obligations.PcWrapIsRefused := by
  intro i s hpc
  refine ⟨fun hr => exec_wraps hr hpc, fun c hc htrap => ?_⟩
  rw [exec_of_raises hc, takeException_endRun htrap, hpc]

/-- Settles O43: only the destination can change, and register 0 reads 0 before and after. -/
theorem registerZeroReadsZeroAndDiscardsWrites : Obligations.RegisterZeroReadsZeroAndDiscardsWrites := by
  refine ⟨fun s v => ⟨readReg_zero s, writeReg_zero s v⟩, fun i s hdest => ?_, fun rs rt imm s => ?_⟩
  · obtain ⟨t, ht⟩ := exec_next i s
    refine ⟨t, ht, fun r => ?_⟩
    by_cases hr : r = 0#5
    · rw [hr, readReg_zero, readReg_zero]
    · exact exec_readReg_of_ne ht (by rw [hdest]; exact fun e => hr (Option.some.inj e).symm)
  · have raises : ∀ {n}, ¬ InSigned32 n → overflowOf n = some .integerOverflow := fun h => if_neg h
    refine ⟨fun h => exec_raised (raises h), fun h => exec_raised (raises h), fun h => exec_raised (raises h),
      fun hpc => ⟨_, finish_completes hpc _, ?_⟩⟩
    exact ⟨s.draws, s.draws + 1, by omega, by omega, by simp, by omega, by simp, rfl, rfl⟩

/-- Settles O44: with the same inputs an instruction raises the same exception or makes the same set of writes. -/
theorem onlySourceRegistersAreRead : Obligations.OnlySourceRegistersAreRead := by
  intro i s gpr t hreads hexec
  have same : SameInputs i s { s with gpr := gpr } := ⟨hreads, rfl⟩
  rcases exec_cases_of_sameInputs same rfl hexec with
    ⟨c, -, rfl, hu⟩ | ⟨-, -, rfl, hu⟩ | ⟨-, -, w, dest, -, rfl, hu⟩
  · have keeps : ∀ u r, (State.takeException u c).readReg r = u.readReg r := fun u => readReg_takeException u c
    exact ⟨_, hu, takeException_withGpr s gpr c, fun r _ => .inr ⟨keeps s r, keeps _ r⟩,
      fun r _ => ⟨keeps s r, keeps _ r⟩⟩
  · exact ⟨_, hu, rfl, fun r _ => .inr ⟨rfl, rfl⟩, fun r _ => ⟨rfl, rfl⟩⟩
  · refine ⟨_, hu, congrArg (State.setPc · (s.pc + 4#32)) (apply_withGpr w s gpr),
      fun r hr => .inl (readReg_apply_dest_congr (dest.trans hr) _ _), fun r hr => ?_⟩
    rw [← dest] at hr
    exact ⟨readReg_apply_of_ne hr s, readReg_apply_of_ne hr _⟩

/-- Settles O45: HI and LO are no inputs, so an instruction acts the same whatever they hold. -/
theorem hiAndLoAreNeverRead : Obligations.HiAndLoAreNeverRead := by
  intro i s t hexec
  refine ⟨fun hw => ?_, fun hi lo => ?_⟩
  · obtain ⟨hhi, hlo, -⟩ := exec_hiLo_of_not hexec hw
    exact ⟨hhi, hlo⟩
  have same : SameInputs i s { s with hi := hi, lo := lo } := ⟨fun _ _ => rfl, rfl⟩
  rcases exec_cases_of_sameInputs same rfl hexec with
    ⟨c, hr, rfl, hu⟩ | ⟨-, hpc, rfl, hu⟩ | ⟨-, -, w, -, hiLo, rfl, hu⟩
  · refine ⟨_, hu, takeException_withHiLo s hi lo c, fun hw _ => ?_⟩
    cases hr.symm.trans (not_raises_of_writesHiLo hw s)
  · exact ⟨_, hu, rfl, fun _ off => absurd hpc off⟩
  · exact ⟨_, hu, congrArg (State.setPc · (s.pc + 4#32)) (apply_withHiLo w s hi lo),
      fun hw _ => hiLo_apply_withHiLo (hiLo.trans hw) s hi lo⟩

/-- Settles O46: the frame of a single register write, by the frames of `exec`. -/
theorem registerInstructionsFrame : Obligations.RegisterInstructionsFrame := by
  intro i s t _ hw hexec
  obtain ⟨hhi, hlo, hdraws⟩ := exec_hiLo_of_not hexec hw
  obtain ⟨hmem, hparams⟩ := exec_mem_params hexec
  exact ⟨fun r => exec_readReg_of_ne hexec, hhi, hlo, hdraws, hparams, fun a => by rw [hmem],
    fun hr => (exec_cp0_status_of_not_raises hexec hr).1⟩

/-- Settles O47: none of the five raises, so CP0 is as before and the status is no trap. -/
theorem multiplyDivideFrame : Obligations.MultiplyDivideFrame := by
  intro i s t hw hexec
  obtain ⟨hmem, hparams⟩ := exec_mem_params hexec
  obtain ⟨hcp0, hstatus⟩ := exec_cp0_status_of_not_raises hexec (not_raises_of_writesHiLo hw s)
  refine ⟨fun r => exec_readReg_of_ne hexec, hparams, hcp0, fun a => by rw [hmem], fun hrun c a htrap => ?_⟩
  rcases hstatus with hst | hst
  · cases hrun.symm.trans (hst.symm.trans htrap)
  · cases hst.symm.trans htrap

end Sys2Proof.Machine
end

section
/-! The program text: the map of words held as bytes (R40 to R43), a word placed at the pc, and what the byte
order does not change. -/

namespace Sys2Proof.Machine

/-! ### A step by what the fetch and the decoder answer -/

theorem step_of_decode_ok {s : State} {w : Word} {i : Instr} (hrun : s.status = .running) (hfetch : s.fetch = some w)
    (hdec : decode w = .ok i) : step s = exec i s := by
  rw [step_running hrun, hfetch]
  simp only [hdec]

/-- R75: a word that is no instruction refuses the run. -/
theorem step_of_decode_error {s : State} {w : Word} {e : DecodeError} (hrun : s.status = .running)
    (hfetch : s.fetch = some w) (hdec : decode w = .error e) : step s = .next (s.refuse .undecodable) := by
  rw [step_running hrun, hfetch]
  simp only [hdec]

/-- Settles O1: `step` hands the decoded instruction to `exec`. -/
theorem stepRunsDecodedInstruction : Obligations.StepRunsDecodedInstruction :=
  fun _ _ _ hrun hfetch hdec => step_of_decode_ok hrun hfetch hdec

/-- Settles O48: a refused fetch or word writes the status alone, and `exec` keeps memory and parameters. -/
theorem programTextNeverChanges : Obligations.ProgramTextNeverChanges := by
  intro s t hstep
  rcases step_cases (running_of_step hstep) with ⟨-, h⟩ | ⟨w, e, -, -, h⟩ | ⟨w, i, -, -, h⟩
  · cases h.symm.trans hstep
    exact ⟨refuse_mem s _, refuse_params s _⟩
  · cases h.symm.trans hstep
    exact ⟨refuse_mem s _, refuse_params s _⟩
  · exact exec_mem_params (h.symm.trans hstep)

/-! ### The program as a map of words -/

/-- R40, R43: the memory of a program of aligned words, read in the byte order it was placed in, is the program's map. -/
theorem Program.fetchWord_toMemory (be : Bool) {p : Program} (aligned : ∀ e ∈ p, Aligned e.1) (a : Word) :
    (p.toMemory be).fetchWord be a.toNat = p.lookup a := by
  induction p with
  | nil => exact Memory.fetchWord_nil be _
  | cons e rest ih =>
    obtain ⟨top, below⟩ := List.forall_mem_cons.1 aligned
    obtain ⟨k, w⟩ := e
    rw [Program.toMemory]
    by_cases here : a = k
    · subst here
      rw [Memory.fetchWord_storeWord _ be top, List.lookup_cons_self]
    · have apart : a.toNat ≠ k.toNat := fun h => here (BitVec.eq_of_toNat_eq h)
      rw [Memory.fetchWord_storeWord_ne _ be top apart, ih below, List.lookup_cons, beq_eq_false_iff_ne.2 here]

/-- Settles O49: the fetch at the pc is the lookup in the map, so where the map has no word the fetch has none. -/
theorem fetchReadsTheProgramMap : Obligations.FetchReadsTheProgramMap := by
  intro p s aligned hmem hrun
  have fetches : s.fetch = p.lookup s.pc := by
    rw [State.fetch, hmem]
    exact Program.fetchWord_toMemory _ aligned _
  exact ⟨fun w hw => fetches.trans hw, fun outside => step_of_fetch_none hrun (fetches.trans outside)⟩

/-- Settles O54: words, entry and the CP0 reset values are aligned, and an aligned launch is Running. -/
theorem invariantHoldsAtLaunch : Obligations.InvariantHoldsAtLaunch := by
  intro p entry params gpr hi lo aligned hentry
  have running : (State.launch p entry params gpr hi lo).status = .running := if_pos hentry
  obtain ⟨-, -, -, hepc, hebase⟩ := invariantHoldsAtReset
  refine ⟨hentry, Program.wf_toMemory _ aligned, fun c a htrap => ?_, hepc, hebase⟩
  cases running.symm.trans htrap

/-! ### A word placed at the pc -/

theorem decode_tableWord_of_decodeTableWord {nbits w : Nat} {i : Instr} (h : decodeTableWord nbits w = some i) :
    decode (tableWord nbits w) = .ok i := by
  rw [decodeTableWord, bytesOfWord, decodeBytes, wordOfBytes_byteOfWord] at h
  cases hdec : decode (tableWord nbits w) with
  | ok j => simpa [hdec] using h
  | error e => simp [hdec] at h

theorem inv_withFetchWord {s : State} (h : s.Inv) (nbits w : Nat) : (s.withFetchWord nbits w).Inv := by
  obtain ⟨hpc, hmem, htrap, hepc, hebase⟩ := h
  have within : s.pc.toNat + 3 < 2 ^ 32 := by
    have := s.pc.isLt
    unfold Aligned at hpc
    omega
  exact ⟨hpc, Memory.wf_storeWord hmem _ within _, htrap, hepc, hebase⟩

/-- Settles O51: the word placed at an aligned pc is the one fetched, and it decodes to the instruction. -/
theorem placedInstructionRunsNext : Obligations.PlacedInstructionRunsNext := by
  intro s nbits w i hinv hrun hdec
  have ⟨hpc, _⟩ := hinv
  exact ⟨inv_withFetchWord hinv nbits w,
    step_of_decode_ok hrun (fetch_withFetchWord hpc nbits w) (decode_tableWord_of_decodeTableWord hdec)⟩

/-! ### The same state with the program text held otherwise -/

/-- The state with its program text held as `mem`, in the byte order `be` (R43). -/
def State.withText (s : State) (mem : Memory) (be : Bool) : State :=
  { s with mem := mem, params := { s.params with bigEndian := be } }

theorem takeException_withText (s : State) (mem : Memory) (be : Bool) (c : ExcCause) :
    (s.withText mem be).takeException c = (s.takeException c).withText mem be := by
  cases htrap : s.params.trapEntry with
  | endRun =>
    have htrap' : (s.withText mem be).params.trapEntry = .endRun := htrap
    rw [takeException_endRun htrap, takeException_endRun htrap']
    rfl
  | handler =>
    have htrap' : (s.withText mem be).params.trapEntry = .handler := htrap
    rw [takeException_handler htrap, takeException_handler htrap']
    rfl

theorem writeReg_withText (s : State) (mem : Memory) (be : Bool) (d : Reg) (v : Word) :
    (s.withText mem be).writeReg d v = (s.writeReg d v).withText mem be := by
  unfold State.writeReg
  split <;> rfl

theorem apply_withText (w : WriteSet) (s : State) (mem : Memory) (be : Bool) :
    w.apply (s.withText mem be) = (w.apply s).withText mem be := by
  cases w with
  | reg d v => exact writeReg_withText s mem be d v
  | hiLo hi lo => rfl
  | drawLoHi => rfl
  | regDrawHiLo d v => exact congrArg State.drawHiLo (writeReg_withText s mem be d v)

/-- No instruction reads the program text or its byte order: it does the same however the text is held. -/
theorem exec_withText {i : Instr} {s t : State} (h : exec i s = .next t) (mem : Memory) (be : Bool) :
    exec i (s.withText mem be) = .next (t.withText mem be) := by
  have same : SameInputs i s (s.withText mem be) := ⟨fun _ _ => rfl, rfl⟩
  rcases exec_cases_of_sameInputs same rfl h with ⟨c, -, rfl, hu⟩ | ⟨-, -, rfl, hu⟩ | ⟨-, -, w, -, -, rfl, hu⟩
  · rw [hu, takeException_withText]
  · exact hu
  · rw [hu, apply_withText]
    rfl

/-- A step sees of the program text the fetched word alone. -/
theorem step_withText {s t : State} {mem : Memory} {be : Bool} (same : (s.withText mem be).fetch = s.fetch)
    (h : step s = .next t) : step (s.withText mem be) = .next (t.withText mem be) := by
  have hrun := running_of_step h
  have hrun' : (s.withText mem be).status = .running := hrun
  rcases step_cases hrun with ⟨hfetch, hstep⟩ | ⟨w, e, hfetch, hdec, hstep⟩ | ⟨w, i, hfetch, hdec, hstep⟩
  · cases hstep.symm.trans h
    exact step_of_fetch_none hrun' (same.trans hfetch)
  · cases hstep.symm.trans h
    exact step_of_decode_error hrun' (same.trans hfetch) hdec
  · rw [step_of_decode_ok hrun' (same.trans hfetch) hdec]
    exact exec_withText (hstep.symm.trans h) mem be

/-- The loader in the other byte order places the same word, in a state that differs in the text alone. -/
theorem withFetchWord_otherOrder (s : State) (nbits w : Nat) (be : Bool) :
    State.withFetchWord { s with params := { s.params with bigEndian := be } } nbits w =
      (s.withFetchWord nbits w).withText (s.mem.storeWord be s.pc.toNat (tableWord nbits w)) be := rfl

/-- Settles O50: placed in either order the same word is fetched, and the rest of the step does not see the text. -/
theorem byteOrderIsUnobservable : Obligations.ByteOrderIsUnobservable := by
  intro s t nbits w be hpc hstep
  rw [withFetchWord_otherOrder]
  have same : ((s.withFetchWord nbits w).withText (s.mem.storeWord be s.pc.toNat (tableWord nbits w)) be).fetch =
      (s.withFetchWord nbits w).fetch :=
    (Memory.fetchWord_storeWord s.mem be hpc _).trans (fetch_withFetchWord hpc nbits w).symm
  exact ⟨_, step_withText same hstep, rfl, rfl, rfl, rfl, rfl, rfl, rfl⟩

end Sys2Proof.Machine
end

section
/-! A word by its fields (R61 to R66): the assembled word as a number, every word as its fields put together, and the
fixed bits of each format's rows (R82, R83) said field by field. -/

namespace Sys2Proof

/-- `instr[31:26]`, the major opcode (R70). -/
def Word.opcode (w : Word) : BitVec 6 := w.extractLsb' 26 6

/-- `instr[5:0]`, the function (R71, R72). -/
def Word.funct (w : Word) : BitVec 6 := w.extractLsb' 0 6

/-! ### The assembled word as a number (R84) -/

theorem toNat_append_eq_add {m n : Nat} (x : BitVec m) (y : BitVec n) :
    (x ++ y).toNat = x.toNat * 2 ^ n + y.toNat := by
  rw [BitVec.toNat_append, ← Nat.shiftLeft_add_eq_or_of_lt y.isLt, Nat.shiftLeft_eq]

theorem toNat_encodeR (op : BitVec 6) (rs rt rd : Reg) (sa : Shamt) (fn : BitVec 6) :
    (encodeR op rs rt rd sa fn).toNat = op.toNat * 2 ^ 26 + rs.toNat * 2 ^ 21 + rt.toNat * 2 ^ 16 +
      rd.toNat * 2 ^ 11 + sa.toNat * 2 ^ 6 + fn.toNat := by
  simp only [encodeR, BitVec.toNat_cast, toNat_append_eq_add]
  omega

theorem toNat_encodeI (op : BitVec 6) (rs rt : Reg) (imm : Imm16) :
    (encodeI op rs rt imm).toNat = op.toNat * 2 ^ 26 + rs.toNat * 2 ^ 21 + rt.toNat * 2 ^ 16 + imm.toNat := by
  simp only [encodeI, BitVec.toNat_cast, toNat_append_eq_add]
  omega

theorem toNat_encodeSys (code : SysCode) : (encodeSys code).toNat = code.toNat * 2 ^ 6 + 0x0C := by
  simp only [encodeSys, BitVec.toNat_cast, toNat_append_eq_add, BitVec.toNat_ofNat]
  omega

/-- Settles O6: a word put together from its fields is the sum of the fields, each shifted past those below it. -/
theorem assembledWordIsSumOfShiftedFields : Obligations.AssembledWordIsSumOfShiftedFields :=
  ⟨fun op fn rs rt rd sa => toNat_encodeR op rs rt rd sa fn, toNat_encodeI, toNat_encodeSys⟩

/-! ### The fields read back -/

@[simp] theorem opcode_encodeR (op : BitVec 6) (rs rt rd : Reg) (sa : Shamt) (fn : BitVec 6) :
    (encodeR op rs rt rd sa fn).opcode = op := by
  apply BitVec.eq_of_toNat_eq
  rw [Word.opcode, BitVec.extractLsb'_toNat, Nat.shiftRight_eq_div_pow, toNat_encodeR]
  omega

@[simp] theorem funct_encodeR (op : BitVec 6) (rs rt rd : Reg) (sa : Shamt) (fn : BitVec 6) :
    (encodeR op rs rt rd sa fn).funct = fn := by
  apply BitVec.eq_of_toNat_eq
  rw [Word.funct, BitVec.extractLsb'_toNat, Nat.shiftRight_eq_div_pow, toNat_encodeR]
  omega

@[simp] theorem opcode_encodeI (op : BitVec 6) (rs rt : Reg) (imm : Imm16) : (encodeI op rs rt imm).opcode = op := by
  apply BitVec.eq_of_toNat_eq
  rw [Word.opcode, BitVec.extractLsb'_toNat, Nat.shiftRight_eq_div_pow, toNat_encodeI]
  omega

@[simp] theorem opcode_encodeSys (code : SysCode) : (encodeSys code).opcode = 0#6 := by
  apply BitVec.eq_of_toNat_eq
  rw [Word.opcode, BitVec.extractLsb'_toNat, Nat.shiftRight_eq_div_pow, toNat_encodeSys, BitVec.toNat_ofNat]
  omega

@[simp] theorem funct_encodeSys (code : SysCode) : (encodeSys code).funct = 0x0C#6 := by
  apply BitVec.eq_of_toNat_eq
  rw [Word.funct, BitVec.extractLsb'_toNat, Nat.shiftRight_eq_div_pow, toNat_encodeSys, BitVec.toNat_ofNat]
  omega

/-- Bits 15..6, the must-be-zero field of format MD (R74), are `rd` and `sa`. -/
theorem bits15to6_eq_zero {w : Word} (hrd : w.rd = 0#5) (hsa : w.sa = 0#5) : w.extractLsb' 6 10 = 0#10 := by
  have hrd := congrArg BitVec.toNat hrd
  have hsa := congrArg BitVec.toNat hsa
  apply BitVec.eq_of_toNat_eq
  simp only [Word.rd, Word.sa, BitVec.extractLsb'_toNat, Nat.shiftRight_eq_div_pow, BitVec.toNat_ofNat] at *
  omega

/-! ### A word is its fields put together -/

theorem encodeR_fields (w : Word) : encodeR w.opcode w.rs w.rt w.rd w.sa w.funct = w := by
  apply BitVec.eq_of_toNat_eq
  simp only [toNat_encodeR, Word.opcode, Word.rs, Word.rt, Word.rd, Word.sa, Word.funct, BitVec.extractLsb'_toNat,
    Nat.shiftRight_eq_div_pow]
  omega

theorem encodeI_fields (w : Word) : encodeI w.opcode w.rs w.rt w.imm16 = w := by
  apply BitVec.eq_of_toNat_eq
  simp only [toNat_encodeI, Word.opcode, Word.rs, Word.rt, Word.imm16, BitVec.extractLsb'_toNat,
    Nat.shiftRight_eq_div_pow]
  omega

theorem encodeSys_fields {w : Word} (hop : w.opcode = 0#6) (hfn : w.funct = 0x0C#6) : encodeSys w.sysCode = w := by
  have hop := congrArg BitVec.toNat hop
  have hfn := congrArg BitVec.toNat hfn
  apply BitVec.eq_of_toNat_eq
  simp only [toNat_encodeSys, Word.opcode, Word.sysCode, Word.funct, BitVec.extractLsb'_toNat,
    Nat.shiftRight_eq_div_pow, BitVec.toNat_ofNat] at *
  omega

/-! ### The fixed bits of a row, field by field -/

/-- A masked word is compared with a pattern field by field. -/
theorem and_eq_encodeR_iff {w : Word} {a op : BitVec 6} {b c d rs rt rd : Reg} {e sa : Shamt} {f fn : BitVec 6} :
    w &&& encodeR a b c d e f = encodeR op rs rt rd sa fn ↔
      w.opcode &&& a = op ∧ w.rs &&& b = rs ∧ w.rt &&& c = rt ∧ w.rd &&& d = rd ∧ w.sa &&& e = sa ∧
        w.funct &&& f = fn := by
  have masked : w &&& encodeR a b c d e f =
      encodeR (w.opcode &&& a) (w.rs &&& b) (w.rt &&& c) (w.rd &&& d) (w.sa &&& e) (w.funct &&& f) := by
    conv_lhs => rw [← encodeR_fields w]
    simp only [encodeR, ← BitVec.and_append]
    rfl
  rw [masked]
  refine ⟨fun h => ⟨?_, ?_, ?_, ?_, ?_, ?_⟩, fun ⟨h1, h2, h3, h4, h5, h6⟩ => by rw [h1, h2, h3, h4, h5, h6]⟩
  · simpa only [opcode_encodeR] using congrArg Word.opcode h
  · simpa only [rs_encodeR] using congrArg Word.rs h
  · simpa only [rt_encodeR] using congrArg Word.rt h
  · simpa only [rd_encodeR] using congrArg Word.rd h
  · simpa only [sa_encodeR] using congrArg Word.sa h
  · simpa only [funct_encodeR] using congrArg Word.funct h

theorem meetsR3_iff {w : Word} {op fn : BitVec 6} :
    w &&& 0xFC0007FF#32 = encodeR op 0#5 0#5 0#5 0#5 fn ↔ w.opcode = op ∧ w.sa = 0#5 ∧ w.funct = fn := by
  have mask : 0xFC0007FF#32 = encodeR (.allOnes 6) 0#5 0#5 0#5 (.allOnes 5) (.allOnes 6) := rfl
  simp only [mask, and_eq_encodeR_iff, BitVec.and_allOnes, BitVec.and_zero, true_and]

theorem meetsSH_iff {w : Word} {op fn : BitVec 6} :
    w &&& 0xFFE0003F#32 = encodeR op 0#5 0#5 0#5 0#5 fn ↔ w.opcode = op ∧ w.rs = 0#5 ∧ w.funct = fn := by
  have mask : 0xFFE0003F#32 = encodeR (.allOnes 6) (.allOnes 5) 0#5 0#5 0#5 (.allOnes 6) := rfl
  simp only [mask, and_eq_encodeR_iff, BitVec.and_allOnes, BitVec.and_zero, true_and]

theorem meetsMD_iff {w : Word} {op fn : BitVec 6} :
    w &&& 0xFC00FFFF#32 = encodeR op 0#5 0#5 0#5 0#5 fn ↔
      w.opcode = op ∧ w.rd = 0#5 ∧ w.sa = 0#5 ∧ w.funct = fn := by
  have mask : 0xFC00FFFF#32 = encodeR (.allOnes 6) 0#5 0#5 (.allOnes 5) (.allOnes 5) (.allOnes 6) := rfl
  simp only [mask, and_eq_encodeR_iff, BitVec.and_allOnes, BitVec.and_zero, true_and]

theorem meetsI_iff {w : Word} {op : BitVec 6} :
    w &&& 0xFC000000#32 = encodeR op 0#5 0#5 0#5 0#5 0#6 ↔ w.opcode = op := by
  have mask : 0xFC000000#32 = encodeR (.allOnes 6) 0#5 0#5 0#5 0#5 0#6 := rfl
  simp only [mask, and_eq_encodeR_iff, BitVec.and_allOnes, BitVec.and_zero, and_true]

theorem meetsSys_iff {w : Word} : w &&& 0xFC00003F#32 = 0x0000000C#32 ↔ w.opcode = 0#6 ∧ w.funct = 0x0C#6 := by
  have mask : 0xFC00003F#32 = encodeR (.allOnes 6) 0#5 0#5 0#5 0#5 (.allOnes 6) := rfl
  have pattern : 0x0000000C#32 = encodeR 0#6 0#5 0#5 0#5 0#5 0x0C#6 := rfl
  simp only [mask, pattern, and_eq_encodeR_iff, BitVec.and_allOnes, BitVec.and_zero, true_and]

end Sys2Proof
end

section
/-! Decoding and assembling are inverse to each other (R84), and the decoder is the search of the table of masks and
matches (R73, R82, R83). -/

namespace Sys2Proof

/-! ### Decoding an assembled word, by format -/

theorem row_mem (mnemonic : String) {r : OpcodeRow} (h : opcodeRows.find? (·.mnemonic == mnemonic) = some r) :
    r ∈ opcodeRows := List.mem_of_find?_eq_some h

theorem decode_encodeR3 {name : String} {op fn : BitVec 6} {mk : Reg → Reg → Reg → Instr}
    (row : rowR3 name (encodeR op 0#5 0#5 0#5 0#5 fn) mk ∈ opcodeRows) (rd rs rt : Reg) :
    decode (encodeR op rs rt rd 0#5 fn) = .ok (mk rd rs rt) := by
  rw [decode_of_row row (meetsR3_iff.2 ⟨opcode_encodeR .., sa_encodeR .., funct_encodeR ..⟩)]
  simp only [rowR3, rd_encodeR, rs_encodeR, rt_encodeR]

theorem decode_encodeSH {name : String} {op fn : BitVec 6} {mk : Reg → Reg → Shamt → Instr}
    (row : rowSH name (encodeR op 0#5 0#5 0#5 0#5 fn) mk ∈ opcodeRows) (rd rt : Reg) (sa : Shamt) :
    decode (encodeR op 0#5 rt rd sa fn) = .ok (mk rd rt sa) := by
  rw [decode_of_row row (meetsSH_iff.2 ⟨opcode_encodeR .., rs_encodeR .., funct_encodeR ..⟩)]
  simp only [rowSH, rd_encodeR, rt_encodeR, sa_encodeR]

theorem decode_encodeMD {name : String} {op fn : BitVec 6} {mk : Reg → Reg → Instr}
    (row : rowMD name (encodeR op 0#5 0#5 0#5 0#5 fn) mk ∈ opcodeRows) (rs rt : Reg) :
    decode (encodeR op rs rt 0#5 0#5 fn) = .ok (mk rs rt) := by
  rw [decode_of_row row (meetsMD_iff.2 ⟨opcode_encodeR .., rd_encodeR .., sa_encodeR .., funct_encodeR ..⟩)]
  simp only [rowMD, rs_encodeR, rt_encodeR]

theorem decode_encodeI {name : String} {op : BitVec 6} {mk : Reg → Reg → Imm16 → Instr}
    (row : rowI name (encodeR op 0#5 0#5 0#5 0#5 0#6) mk ∈ opcodeRows) (rt rs : Reg) (imm : Imm16) :
    decode (encodeI op rs rt imm) = .ok (mk rt rs imm) := by
  rw [decode_of_row row (meetsI_iff.2 (opcode_encodeI ..))]
  simp only [rowI, rt_encodeI, rs_encodeI, imm16_encodeI]

theorem decode_encodeSys (code : SysCode) : decode (encodeSys code) = .ok (.syscall code) := by
  rw [decode_of_row (row_mem "SYSCALL" rfl) (meetsSys_iff.2 ⟨opcode_encodeSys code, funct_encodeSys code⟩)]
  simp only [sysCode_encodeSys]

/-- Settles O4: the word of each instruction meets the row of its mnemonic, which reads the operands back. -/
theorem decodeEncodeRoundTrip : Obligations.DecodeEncodeRoundTrip := by
  intro i hwf
  cases i with
  | add rd rs rt => exact decode_encodeR3 (row_mem "ADD" rfl) rd rs rt
  | addu rd rs rt => exact decode_encodeR3 (row_mem "ADDU" rfl) rd rs rt
  | sub rd rs rt => exact decode_encodeR3 (row_mem "SUB" rfl) rd rs rt
  | subu rd rs rt => exact decode_encodeR3 (row_mem "SUBU" rfl) rd rs rt
  | and rd rs rt => exact decode_encodeR3 (row_mem "AND" rfl) rd rs rt
  | or rd rs rt => exact decode_encodeR3 (row_mem "OR" rfl) rd rs rt
  | xor rd rs rt => exact decode_encodeR3 (row_mem "XOR" rfl) rd rs rt
  | nor rd rs rt => exact decode_encodeR3 (row_mem "NOR" rfl) rd rs rt
  | slt rd rs rt => exact decode_encodeR3 (row_mem "SLT" rfl) rd rs rt
  | sltu rd rs rt => exact decode_encodeR3 (row_mem "SLTU" rfl) rd rs rt
  | mul rd rs rt => exact decode_encodeR3 (row_mem "MUL" rfl) rd rs rt
  | sll rd rt sa => exact decode_encodeSH (row_mem "SLL" rfl) rd rt sa
  | srl rd rt sa => exact decode_encodeSH (row_mem "SRL" rfl) rd rt sa
  | sra rd rt sa => exact decode_encodeSH (row_mem "SRA" rfl) rd rt sa
  | mult rs rt => exact decode_encodeMD (row_mem "MULT" rfl) rs rt
  | multu rs rt => exact decode_encodeMD (row_mem "MULTU" rfl) rs rt
  | div rs rt => exact decode_encodeMD (row_mem "DIV" rfl) rs rt
  | divu rs rt => exact decode_encodeMD (row_mem "DIVU" rfl) rs rt
  | addi rt rs imm => exact decode_encodeI (row_mem "ADDI" rfl) rt rs imm
  | addiu rt rs imm => exact decode_encodeI (row_mem "ADDIU" rfl) rt rs imm
  | slti rt rs imm => exact decode_encodeI (row_mem "SLTI" rfl) rt rs imm
  | sltiu rt rs imm => exact decode_encodeI (row_mem "SLTIU" rfl) rt rs imm
  | andi rt rs imm => exact decode_encodeI (row_mem "ANDI" rfl) rt rs imm
  | ori rt rs imm => exact decode_encodeI (row_mem "ORI" rfl) rt rs imm
  | xori rt rs imm => exact decode_encodeI (row_mem "XORI" rfl) rt rs imm
  | syscall code => exact decode_encodeSys code
  | nop => cases hwf
  | ssnop => cases hwf

/-! ### Assembling a decoded word, by format -/

/-- Every word that meets the row is the word of the well-formed instruction the row reads from it. -/
def OpcodeRow.Assembles (r : OpcodeRow) : Prop :=
  ∀ w : Word, w &&& r.mask = r.pattern → (r.build w).wellFormed = true ∧ encode (r.build w) = w

theorem rowR3_assembles {name : String} {p : Word} {mk : Reg → Reg → Reg → Instr}
    (hp : p = encodeR p.opcode 0#5 0#5 0#5 0#5 p.funct)
    (hmk : ∀ rd rs rt,
      (mk rd rs rt).wellFormed = true ∧ encode (mk rd rs rt) = encodeR p.opcode rs rt rd 0#5 p.funct) :
    (rowR3 name p mk).Assembles := by
  intro w hw
  obtain ⟨hop, hsa, hfn⟩ := meetsR3_iff.1 (hw.trans hp)
  obtain ⟨hwf, henc⟩ := hmk w.rd w.rs w.rt
  exact ⟨hwf, henc.trans (by rw [← hop, ← hsa, ← hfn, encodeR_fields])⟩

theorem rowSH_assembles {name : String} {p : Word} {mk : Reg → Reg → Shamt → Instr}
    (hp : p = encodeR p.opcode 0#5 0#5 0#5 0#5 p.funct)
    (hmk : ∀ rd rt sa,
      (mk rd rt sa).wellFormed = true ∧ encode (mk rd rt sa) = encodeR p.opcode 0#5 rt rd sa p.funct) :
    (rowSH name p mk).Assembles := by
  intro w hw
  obtain ⟨hop, hrs, hfn⟩ := meetsSH_iff.1 (hw.trans hp)
  obtain ⟨hwf, henc⟩ := hmk w.rd w.rt w.sa
  exact ⟨hwf, henc.trans (by rw [← hop, ← hrs, ← hfn, encodeR_fields])⟩

theorem rowMD_assembles {name : String} {p : Word} {mk : Reg → Reg → Instr}
    (hp : p = encodeR p.opcode 0#5 0#5 0#5 0#5 p.funct)
    (hmk : ∀ rs rt, (mk rs rt).wellFormed = true ∧ encode (mk rs rt) = encodeR p.opcode rs rt 0#5 0#5 p.funct) :
    (rowMD name p mk).Assembles := by
  intro w hw
  obtain ⟨hop, hrd, hsa, hfn⟩ := meetsMD_iff.1 (hw.trans hp)
  obtain ⟨hwf, henc⟩ := hmk w.rs w.rt
  have whole := encodeR_fields w
  rw [hop, hrd, hsa, hfn] at whole
  exact ⟨hwf, henc.trans whole⟩

theorem rowI_assembles {name : String} {p : Word} {mk : Reg → Reg → Imm16 → Instr}
    (hp : p = encodeR p.opcode 0#5 0#5 0#5 0#5 0#6)
    (hmk : ∀ rt rs imm, (mk rt rs imm).wellFormed = true ∧ encode (mk rt rs imm) = encodeI p.opcode rs rt imm) :
    (rowI name p mk).Assembles := by
  intro w hw
  have hop := meetsI_iff.1 (hw.trans hp)
  obtain ⟨hwf, henc⟩ := hmk w.rt w.rs w.imm16
  exact ⟨hwf, henc.trans (by rw [← hop, encodeI_fields])⟩

theorem opcodeRows_assemble : ∀ r ∈ opcodeRows, r.Assembles := by
  simp only [opcodeRows, printedRows, suppliedRows, List.cons_append, List.nil_append, List.forall_mem_cons]
  refine ⟨rowSH_assembles rfl ?_, rowSH_assembles rfl ?_, rowSH_assembles rfl ?_, rowR3_assembles rfl ?_,
    rowR3_assembles rfl ?_, rowR3_assembles rfl ?_, rowR3_assembles rfl ?_, rowR3_assembles rfl ?_,
    rowR3_assembles rfl ?_, rowR3_assembles rfl ?_, rowR3_assembles rfl ?_, rowR3_assembles rfl ?_,
    rowR3_assembles rfl ?_, rowR3_assembles rfl ?_, rowI_assembles rfl ?_, rowI_assembles rfl ?_,
    rowI_assembles rfl ?_, rowI_assembles rfl ?_, rowI_assembles rfl ?_, rowI_assembles rfl ?_, rowI_assembles rfl ?_,
    rowMD_assembles rfl ?_, rowMD_assembles rfl ?_, rowMD_assembles rfl ?_, rowMD_assembles rfl ?_, ?syscall, ?nil⟩
  case syscall =>
    intro w hw
    obtain ⟨hop, hfn⟩ := meetsSys_iff.1 hw
    exact ⟨rfl, encodeSys_fields hop hfn⟩
  case nil => exact List.forall_mem_nil _
  all_goals
    intros
    exact ⟨rfl, rfl⟩

/-- Settles O5: the row that decoded the word assembles it. -/
theorem encodeDecodeRoundTrip : Obligations.EncodeDecodeRoundTrip := by
  intro w i hdec
  obtain ⟨r, hr, hw, rfl⟩ := row_of_decode hdec
  exact opcodeRows_assemble r hr w hw

/-! ### The decoder as the table of masks and matches -/

theorem decode_undecodable_iff {w : Word} :
    decode w = .error .undecodable ↔ ∀ r ∈ opcodeRows, w &&& r.mask ≠ r.pattern := by
  refine ⟨fun hdec r hr hw => ?_, fun misses => ?_⟩
  · cases hdec.symm.trans (decode_of_row hr hw)
  · have notFound : opcodeRows.find? (fun r => w &&& r.mask == r.pattern) = none :=
      List.find?_eq_none.2 fun r hr found => misses r hr (beq_iff_eq.1 found)
    rw [decode, notFound]

theorem row_unique {w : Word} {r q : OpcodeRow} (hr : r ∈ opcodeRows) (hq : q ∈ opcodeRows)
    (hw : w &&& r.mask = r.pattern) (hw' : w &&& q.mask = q.pattern) : r = q :=
  Option.some.inj ((find_row opcodeRows_disjoint hr hw).symm.trans (find_row opcodeRows_disjoint hq hw'))

/-- Settles O3: the pairs written out are the masks and matches of the rows searched, which are disjoint. -/
theorem decodeMatchesMasksOfTable : Obligations.DecodeMatchesMasksOfTable := by
  unfold Obligations.DecodeMatchesMasksOfTable
  intro table w
  have rows : table = opcodeRows.map (fun r => (r.mask, r.pattern)) := rfl
  rw [rows]
  refine ⟨by rw [decode_undecodable_iff, List.forall_mem_map], fun e he f hf hwe hwf => ?_⟩
  obtain ⟨r, hr, rfl⟩ := List.mem_map.1 he
  obtain ⟨q, hq, rfl⟩ := List.mem_map.1 hf
  rw [row_unique hr hq hwe hwf]

end Sys2Proof
end

section
/-! The words that are no instruction (R74 to R76): the tables R70 to R72 give a decoded word's opcode and function its
format, and the format's must-be-zero field is zero. -/

namespace Sys2Proof

/-- The formats R61 to R66; `r3` is also R3-SPECIAL2. -/
inductive Format where
  | r3 | imm | sh | md | sys
  deriving DecidableEq

/-! ### The opcode tables -/

/-- The functions of SPECIAL with format SH (R71). -/
def shFuncts : List (BitVec 6) := [0x00#6, 0x02#6, 0x03#6]

/-- The functions of SPECIAL with format R3 (R71). -/
def r3Functs : List (BitVec 6) := [0x20#6, 0x21#6, 0x22#6, 0x23#6, 0x24#6, 0x25#6, 0x26#6, 0x27#6, 0x2A#6, 0x2B#6]

/-- The functions of SPECIAL with format MD (R71). -/
def mdFuncts : List (BitVec 6) := [0x18#6, 0x19#6, 0x1A#6, 0x1B#6]

/-- The major opcodes with format I (R70). -/
def immOpcodes : List (BitVec 6) := [0x08#6, 0x09#6, 0x0A#6, 0x0B#6, 0x0C#6, 0x0D#6, 0x0E#6]

/-- The format of a major opcode and function, where the tables R70 to R72 have them. -/
def formatOf (op fn : BitVec 6) : Option Format :=
  if op = 0x00#6 then
    if fn ∈ shFuncts then some .sh else if fn ∈ r3Functs then some .r3 else if fn ∈ mdFuncts then some .md
    else if fn = 0x0C#6 then some .sys else none
  else if op = 0x1C#6 then if fn = 0x02#6 then some .r3 else none
  else if op ∈ immOpcodes then some .imm
  else none

/-- The format's must-be-zero field is zero in the word (R74). -/
def Format.ZeroIn (f : Format) (w : Word) : Prop :=
  match f with
  | .r3 => w.sa = 0#5
  | .sh => w.rs = 0#5
  | .md => w.extractLsb' 6 10 = 0#10
  | .imm | .sys => True

/-- The word's opcode and function stand in the tables and its must-be-zero field is zero. -/
def FitsTables (w : Word) : Prop := ∃ f, formatOf w.opcode w.funct = some f ∧ f.ZeroIn w

/-! ### Assembled words fit the tables -/

theorem fitsTables_encodeR3 {op fn : BitVec 6} (h : formatOf op fn = some .r3) (rs rt rd : Reg) :
    FitsTables (encodeR op rs rt rd 0#5 fn) := ⟨.r3, by simpa using h, sa_encodeR ..⟩

theorem fitsTables_encodeSH {op fn : BitVec 6} (h : formatOf op fn = some .sh) (rt rd : Reg) (sa : Shamt) :
    FitsTables (encodeR op 0#5 rt rd sa fn) := ⟨.sh, by simpa using h, rs_encodeR ..⟩

theorem fitsTables_encodeMD {op fn : BitVec 6} (h : formatOf op fn = some .md) (rs rt : Reg) :
    FitsTables (encodeR op rs rt 0#5 0#5 fn) :=
  ⟨.md, by simpa using h, bits15to6_eq_zero (rd_encodeR ..) (sa_encodeR ..)⟩

theorem fitsTables_encodeI {op : BitVec 6} (h : ∀ fn, formatOf op fn = some .imm) (rs rt : Reg) (imm : Imm16) :
    FitsTables (encodeI op rs rt imm) := ⟨.imm, by simpa using h _, trivial⟩

theorem fitsTables_encodeSys (code : SysCode) : FitsTables (encodeSys code) :=
  ⟨.sys, by rw [opcode_encodeSys, funct_encodeSys]; rfl, trivial⟩

theorem fitsTables_encode {i : Instr} (hwf : i.wellFormed = true) : FitsTables (encode i) := by
  cases i
  case nop | ssnop => cases hwf
  case sll | srl | sra => exact fitsTables_encodeSH rfl _ _ _
  case mult | multu | div | divu => exact fitsTables_encodeMD rfl _ _
  case addi | addiu | slti | sltiu | andi | ori | xori => exact fitsTables_encodeI (fun _ => rfl) _ _ _
  case syscall code => exact fitsTables_encodeSys code
  all_goals exact fitsTables_encodeR3 rfl _ _ _

/-! ### Words that do not fit are Undecodable -/

/-- A word that meets a row is assembled from the row's instruction, so it fits the tables. -/
theorem undecodable_of_not_fitsTables {w : Word} (h : ¬ FitsTables w) : decode w = .error .undecodable := by
  refine decode_undecodable_iff.2 fun r hr hw => h ?_
  obtain ⟨hwf, henc⟩ := opcodeRows_assemble r hr w hw
  rw [← henc]
  exact fitsTables_encode hwf

theorem undecodable_of_not_zero {w : Word} {f : Format} (hf : formatOf w.opcode w.funct = some f)
    (hne : ¬ f.ZeroIn w) : decode w = .error .undecodable := by
  refine undecodable_of_not_fitsTables fun ⟨g, hg, zero⟩ => hne ?_
  rwa [Option.some.inj (hf.symm.trans hg)]

theorem undecodable_of_no_format {w : Word} (hf : formatOf w.opcode w.funct = none) :
    decode w = .error .undecodable :=
  undecodable_of_not_fitsTables fun ⟨_, hg, _⟩ => by cases hf.symm.trans hg

/-! ### Reading the tables -/

theorem formatOf_special_r3 : ∀ fn ∈ r3Functs, formatOf 0x00#6 fn = some .r3 := by decide

theorem formatOf_special_sh : ∀ fn ∈ shFuncts, formatOf 0x00#6 fn = some .sh := by decide

theorem formatOf_special_md : ∀ fn ∈ mdFuncts, formatOf 0x00#6 fn = some .md := by decide

theorem formatOf_special_none :
    ∀ fn, fn ∉ shFuncts ++ 0x0C#6 :: mdFuncts ++ r3Functs → formatOf 0x00#6 fn = none := by decide

theorem formatOf_special2_none {fn : BitVec 6} (h : fn ≠ 0x02#6) : formatOf 0x1C#6 fn = none := by
  simp [formatOf, h]

theorem formatOf_none {op : BitVec 6} (h : op ∉ 0x00#6 :: immOpcodes ++ [0x1C#6]) (fn : BitVec 6) :
    formatOf op fn = none := by
  obtain ⟨special, imm, special2⟩ : op ≠ 0x00#6 ∧ op ∉ immOpcodes ∧ op ≠ 0x1C#6 := by simpa using h
  rw [formatOf, if_neg special, if_neg special2, if_neg imm]

/-- Settles O7: the opcode and function fix the format, whose must-be-zero field is not zero. -/
theorem mustBeZeroFieldsAreRequired : Obligations.MustBeZeroFieldsAreRequired := by
  intro w
  refine ⟨fun hop hfn => ?_, fun hop hfn => ?_, fun hop hfn => ?_, fun hop hfn => ?_⟩
  · exact undecodable_of_not_zero (f := .r3) (by rw [Word.opcode, hop]; exact formatOf_special_r3 _ hfn)
  · exact undecodable_of_not_zero (f := .r3) (by rw [Word.opcode, hop, Word.funct, hfn]; rfl)
  · exact undecodable_of_not_zero (f := .sh) (by rw [Word.opcode, hop]; exact formatOf_special_sh _ hfn)
  · exact undecodable_of_not_zero (f := .md) (by rw [Word.opcode, hop]; exact formatOf_special_md _ hfn)

/-- Settles O8: bit 21 is the lowest bit of `rs`, the must-be-zero field of SRL. -/
theorem srlWithBit21IsUndecodable : Obligations.SrlWithBit21IsUndecodable := by
  intro w hop hfn _ hbit
  obtain ⟨-, -, hsh, -⟩ := mustBeZeroFieldsAreRequired w
  refine hsh hop (by rw [hfn]; decide) fun hrs => ?_
  have low : (w.extractLsb' 21 5).getLsbD 0 = w.getLsbD 21 := by simp
  rw [hrs, hbit] at low
  cases low

/-- Settles O9: opcodes and functions outside the tables have no format, and `step` refuses what does not decode. -/
theorem undecodableWordsEndTheRunRefused : Obligations.UndecodableWordsEndTheRunRefused := by
  refine ⟨fun w => ⟨fun hop => ?_, fun hop hfn => ?_, fun hop hfn => ?_⟩, mustBeZeroFieldsAreRequired,
    fun s w hrun hfetch hdec => Machine.step_of_decode_error hrun hfetch hdec⟩
  · exact undecodable_of_no_format (formatOf_none hop _)
  · exact undecodable_of_no_format (by rw [Word.opcode, hop]; exact formatOf_special_none _ hfn)
  · exact undecodable_of_no_format (by rw [Word.opcode, hop]; exact formatOf_special2_none hfn)

end Sys2Proof
end

section
/-! Immediates, sample words and the idioms. -/

namespace Sys2Proof.Machine

/-! ### The immediates (R67, R68) -/

/-- A sign-extended immediate read unsigned lies in the lowest or in the highest 32768 words. -/
theorem toNat_simm_range (imm : Imm16) : (simm imm).toNat ≤ 32767 ∨ 2 ^ 32 - 32768 ≤ (simm imm).toNat := by
  have lower := BitVec.le_toInt imm
  have upper := BitVec.toInt_lt (x := imm)
  rw [← toInt_simm, BitVec.toInt_eq_toNat_cond] at lower upper
  split at lower <;> omega

@[simp] theorem toNat_zimm (imm : Imm16) : (zimm imm).toNat = imm.toNat := by
  rw [zimm, BitVec.zeroExtend, BitVec.toNat_setWidth_of_le (by decide)]

theorem getLsbD_simm (imm : Imm16) {k : Nat} (hk : k < 32) :
    (simm imm).getLsbD k = if k < 16 then imm.getLsbD k else imm.getLsbD 15 := by
  simp only [simm, BitVec.getLsbD_signExtend, hk, decide_true, Bool.true_and, BitVec.msb_eq_getLsbD_last]

theorem getLsbD_zimm (imm : Imm16) (k : Nat) :
    (zimm imm).getLsbD k = if k < 16 then imm.getLsbD k else false := by
  rw [zimm, BitVec.zeroExtend, BitVec.getLsbD_setWidth]
  split
  · rw [decide_eq_true (by omega), Bool.true_and]
  · rw [BitVec.getLsbD_of_ge imm k (by omega), Bool.and_false]

/-- Settles O10: sign extension keeps the signed value and zero extension the unsigned one. -/
theorem immediatesDenoteTheseIntegers : Obligations.ImmediatesDenoteTheseIntegers := by
  intro imm
  have small := imm.isLt
  refine ⟨fun k => getLsbD_simm imm, ?_, toNat_simm_range imm, getLsbD_zimm imm, ?_, ?_⟩
  · rw [toInt_simm]
    exact ⟨BitVec.le_toInt imm, Int.le_of_lt_add_one BitVec.toInt_lt⟩
  · rw [toNat_zimm]
    omega
  · rw [BitVec.toInt_eq_toNat_of_lt (by rw [toNat_zimm]; omega), toNat_zimm]

/-- Settles O2: the decoder run on each word. -/
theorem decodeSampleWords : Obligations.DecodeSampleWords :=
  ⟨rfl, rfl, rfl, rfl, rfl, rfl, rfl, rfl, rfl, rfl, rfl, rfl, rfl⟩

/-! ### NOP and SSNOP (R160, R161) -/

/-- A shift into register 0 changes the pc alone. -/
theorem shiftLeft_zero {s : State} (hpc : s.pc ≠ Config.lastWord) (rt : Reg) (sa : Shamt) :
    s.shiftLeft 0#5 rt sa = .next { s with pc := s.pc + 4#32 } := by
  rw [State.shiftLeft, writeReg_zero, finish_completes hpc]
  rfl

/-- Settles O31: both idioms and both SLLs are shifts into register 0. -/
theorem nopAndSsnopChangeOnlyThePc : Obligations.NopAndSsnopChangeOnlyThePc :=
  ⟨rfl, rfl, rfl, rfl, fun _ => ⟨rfl, rfl, fun hpc => ⟨shiftLeft_zero hpc .., shiftLeft_zero hpc ..⟩⟩⟩

end Sys2Proof.Machine
end

section
/-! What the decoder reads from a word that meets a row, and what an instruction leaves that writes one register: the
facts a statement about a single register instruction is put together from. -/

namespace Sys2Proof

/-- R61: the operands of a word that meets a row of format R3. -/
theorem decode_of_meetsR3 {name : String} {p : Word} {mk : Reg → Reg → Reg → Instr}
    (row : rowR3 name p mk ∈ opcodeRows) {w : Word} (meets : w &&& 0xFC0007FF#32 = p) :
    decode w = .ok (mk (w.extractLsb' 11 5) (w.extractLsb' 21 5) (w.extractLsb' 16 5)) :=
  decode_of_row row meets

/-- R62: the operands of a word that meets a row of format I. -/
theorem decode_of_meetsI {name : String} {p : Word} {mk : Reg → Reg → Imm16 → Instr}
    (row : rowI name p mk ∈ opcodeRows) {w : Word} (meets : w &&& 0xFC000000#32 = p) :
    decode w = .ok (mk (w.extractLsb' 16 5) (w.extractLsb' 21 5) (w.extractLsb' 0 16)) :=
  decode_of_row row meets

namespace Machine

/-- R27: off the last word, an instruction that ends with one register written leaves that write and nothing else. -/
theorem finish_writeReg_onlyReg {s : State} (off : s.pc ≠ Config.lastWord) (d : Reg) (v : Word) :
    ∃ t, s.finish (s.writeReg d v) = .next t ∧ OnlyReg s t d v :=
  ⟨_, finish_completes off _, readReg_writeReg s d v, writeReg_hi s d v, writeReg_lo s d v, writeReg_draws s d v, rfl,
    writeReg_status s d v, writeReg_cp0 s d v, fun a => by simp, writeReg_params s d v⟩

/-- The same of an instruction that ends so, with what is known of the word written. -/
theorem exec_onlyReg {i : Instr} {s : State} {d : Reg} {v : Word} {P : Word → Prop} (off : s.pc ≠ Config.lastWord)
    (runs : exec i s = s.finish (s.writeReg d v)) (known : P v) :
    ∃ v t, exec i s = .next t ∧ P v ∧ OnlyReg s t d v := by
  obtain ⟨t, ht, only⟩ := finish_writeReg_onlyReg off d v
  exact ⟨v, t, runs.trans ht, known, only⟩

end Machine

end Sys2Proof
end

section
/-! Add and subtract (40_add_sub.md): the three results as word arithmetic and as exact integers, what each of the six
instructions does, and which instructions are commutative in `rs` and `rt`. -/

namespace Sys2Proof.Machine

/-! ### Word arithmetic and the exact integers -/

theorem toInt_ofInt_of_inSigned32 {n : Int} (fits : InSigned32 n) : (BitVec.ofInt 32 n).toInt = n := by
  obtain ⟨lower, upper⟩ := fits
  exact BitVec.toInt_ofInt_eq_self (by decide) (by omega) (by omega)

/-- A word made from an integer is that integer modulo 2^32. -/
theorem natCast_toNat_ofInt (n : Int) : ((BitVec.ofInt 32 n).toNat : Int) = n % 2 ^ 32 := by
  rw [BitVec.toNat_ofInt]
  omega

theorem ofInt_toInt_add (a b : Word) : BitVec.ofInt 32 (a.toInt + b.toInt) = a + b := by
  rw [BitVec.ofInt_add, BitVec.ofInt_toInt, BitVec.ofInt_toInt]

theorem ofInt_toInt_sub (a b : Word) : BitVec.ofInt 32 (a.toInt - b.toInt) = a - b := by
  rw [Int.sub_eq_add_neg, BitVec.ofInt_add, BitVec.ofInt_neg, BitVec.ofInt_toInt, BitVec.ofInt_toInt,
    BitVec.sub_eq_add_neg]

theorem ofNat_toNat_add (a b : Word) : BitVec.ofNat 32 (a.toNat + b.toNat) = a + b := by
  rw [BitVec.ofNat_add, BitVec.ofNat_toNat, BitVec.ofNat_toNat, BitVec.setWidth_eq, BitVec.setWidth_eq]

theorem ofInt_toNat_sub (a b : Word) : BitVec.ofInt 32 ((a.toNat : Int) - b.toNat) = a - b := by
  rw [Int.sub_eq_add_neg, BitVec.ofInt_add, BitVec.ofInt_neg, BitVec.ofInt_natCast, BitVec.ofInt_natCast,
    BitVec.ofNat_toNat, BitVec.ofNat_toNat, BitVec.setWidth_eq, BitVec.setWidth_eq, BitVec.sub_eq_add_neg]

/-! ### The 33-bit `temp` (R100) -/

theorem addTemp_eq_ofInt (a b : Word) : addTemp a b = BitVec.ofInt 33 (a.toInt + b.toInt) := by
  rw [addTemp, BitVec.toInt_signExtend_of_le (by decide), BitVec.toInt_signExtend_of_le (by decide)]

theorem subTemp_eq_ofInt (a b : Word) : subTemp a b = BitVec.ofInt 33 (a.toInt - b.toInt) := by
  rw [subTemp, BitVec.toInt_signExtend_of_le (by decide), BitVec.toInt_signExtend_of_le (by decide)]

theorem addTemp_comm (a b : Word) : addTemp a b = addTemp b a := by
  rw [addTemp_eq_ofInt, addTemp_eq_ofInt, Int.add_comm]

/-- The low 32 bits of an integer held in 33 are the integer modulo 2^32. -/
theorem tempResult_ofInt (n : Int) : tempResult (BitVec.ofInt 33 n) = BitVec.ofInt 32 n := by
  apply BitVec.eq_of_toNat_eq
  rw [tempResult, BitVec.extractLsb'_toNat, Nat.shiftRight_zero, BitVec.toNat_ofInt, BitVec.toNat_ofInt]
  omega

theorem tempResult_addTemp (a b : Word) : tempResult (addTemp a b) = BitVec.ofInt 32 (a.toInt + b.toInt) := by
  rw [addTemp_eq_ofInt, tempResult_ofInt]

theorem tempResult_subTemp (a b : Word) : tempResult (subTemp a b) = BitVec.ofInt 32 (a.toInt - b.toInt) := by
  rw [subTemp_eq_ofInt, tempResult_ofInt]

theorem inSigned32_of_not_overflows {t33 : BitVec 33} {n : Int} (test : overflows t33 = true ↔ ¬ InSigned32 n)
    (passes : overflows t33 = false) : InSigned32 n :=
  Classical.not_not.1 (mt test.2 (Bool.eq_false_iff.1 passes))

/-- Settles O11: `temp` is the exact integer held in 33 bits. -/
theorem overflowTestIsExactRange : Obligations.OverflowTestIsExactRange := by
  intro a b
  refine ⟨overflows_addTemp a b, overflows_subTemp a b, tempResult_addTemp a b, tempResult_subTemp a b,
    fun passes => ?_, fun passes => ?_⟩
  · rw [tempResult_addTemp]
    exact toInt_ofInt_of_inSigned32 (inSigned32_of_not_overflows (overflows_addTemp a b) passes)
  · rw [tempResult_subTemp]
    exact toInt_ofInt_of_inSigned32 (inSigned32_of_not_overflows (overflows_subTemp a b) passes)

/-! ### What the six instructions do -/

theorem finishTrapping_of_fits {t33 : BitVec 33} {n : Int} (test : overflows t33 = true ↔ ¬ InSigned32 n)
    (fits : InSigned32 n) (s : State) (d : Reg) :
    s.finishTrapping d t33 = s.finish (s.writeReg d (tempResult t33)) :=
  if_neg fun overflow => test.1 overflow fits

theorem exec_add_of_fits {rs rt : Reg} {s : State}
    (fits : InSigned32 ((s.readReg rs).toInt + (s.readReg rt).toInt)) (rd : Reg) :
    exec (.add rd rs rt) s = s.finish (s.writeReg rd (s.readReg rs + s.readReg rt)) := by
  rw [← ofInt_toInt_add, ← tempResult_addTemp]
  exact finishTrapping_of_fits (overflows_addTemp _ _) fits s rd

theorem exec_addi_of_fits {rs : Reg} {imm : Imm16} {s : State}
    (fits : InSigned32 ((s.readReg rs).toInt + imm.toInt)) (rt : Reg) :
    exec (.addi rt rs imm) s = s.finish (s.writeReg rt (s.readReg rs + simm imm)) := by
  rw [← toInt_simm] at fits
  rw [← ofInt_toInt_add, ← tempResult_addTemp]
  exact finishTrapping_of_fits (overflows_addTemp _ _) fits s rt

theorem exec_sub_of_fits {rs rt : Reg} {s : State}
    (fits : InSigned32 ((s.readReg rs).toInt - (s.readReg rt).toInt)) (rd : Reg) :
    exec (.sub rd rs rt) s = s.finish (s.writeReg rd (s.readReg rs - s.readReg rt)) := by
  rw [← ofInt_toInt_sub, ← tempResult_subTemp]
  exact finishTrapping_of_fits (overflows_subTemp _ _) fits s rd

theorem exec_addu (rd rs rt : Reg) (s : State) :
    exec (.addu rd rs rt) s = s.finish (s.writeReg rd (s.readReg rs + s.readReg rt)) := by
  rw [← ofNat_toNat_add]
  rfl

theorem exec_addiu (rt rs : Reg) (imm : Imm16) (s : State) :
    exec (.addiu rt rs imm) s = s.finish (s.writeReg rt (s.readReg rs + simm imm)) := by
  rw [← ofNat_toNat_add]
  rfl

theorem exec_subu (rd rs rt : Reg) (s : State) :
    exec (.subu rd rs rt) s = s.finish (s.writeReg rd (s.readReg rs - s.readReg rt)) := by
  rw [← ofInt_toNat_sub]
  rfl

theorem overflowOf_of_not_fits {n : Int} (h : ¬ InSigned32 n) : overflowOf n = some .integerOverflow := if_neg h

theorem fits_of_overflowOf_eq_none {n : Int} (h : overflowOf n = none) : InSigned32 n := by
  by_contra outside
  cases (overflowOf_of_not_fits outside).symm.trans h

/-! ### The exact forms -/

/-- Settles O12: a sum that fits is the word sum, one that does not raises before the write. -/
theorem addWritesExactSumOrRaises : Obligations.AddWritesExactSumOrRaises := by
  refine ⟨fun _ => decode_of_meetsR3 (row_mem "ADD" rfl), fun rd rs rt s =>
    ⟨fun off fits => exec_onlyReg off (exec_add_of_fits fits rd) ?_,
      fun outside => exec_raised (overflowOf_of_not_fits outside)⟩⟩
  rw [← ofInt_toInt_add, toInt_ofInt_of_inSigned32 fits]

/-- Settles O13: as ADD, the immediate's signed value kept by its sign extension. -/
theorem addiWritesExactSumOrRaises : Obligations.AddiWritesExactSumOrRaises := by
  refine ⟨fun _ => decode_of_meetsI (row_mem "ADDI" rfl), fun rt rs imm s =>
    ⟨fun off fits => exec_onlyReg off (exec_addi_of_fits fits rt) ?_,
      fun outside => exec_raised (overflowOf_of_not_fits outside)⟩⟩
  rw [← ofInt_toInt_add, toInt_simm, toInt_ofInt_of_inSigned32 fits]

/-- Settles O16: a difference that fits is the word difference, one that does not raises before the write. -/
theorem subWritesExactDifferenceOrRaises : Obligations.SubWritesExactDifferenceOrRaises := by
  refine ⟨fun _ => decode_of_meetsR3 (row_mem "SUB" rfl), fun rd rs rt s =>
    ⟨fun off fits => exec_onlyReg off (exec_sub_of_fits fits rd) ?_,
      fun outside => exec_raised (overflowOf_of_not_fits outside)⟩⟩
  rw [← ofInt_toInt_sub, toInt_ofInt_of_inSigned32 fits]

/-! ### The modular forms -/

/-- Settles O14: the word written is the signed sum modulo 2^32. -/
theorem addiuWritesSumModulo : Obligations.AddiuWritesSumModulo := by
  refine ⟨fun _ => decode_of_meetsI (row_mem "ADDIU" rfl), fun rt rs imm s off =>
    exec_onlyReg off (exec_addiu rt rs imm s) ?_⟩
  rw [← ofInt_toInt_add, toInt_simm, natCast_toNat_ofInt]

/-- Settles O15: the word written is the unsigned sum modulo 2^32. -/
theorem adduWritesSumModulo : Obligations.AdduWritesSumModulo :=
  ⟨fun _ => decode_of_meetsR3 (row_mem "ADDU" rfl), fun rd rs rt s off =>
    exec_onlyReg off (exec_addu rd rs rt s) (BitVec.toNat_add _ _)⟩

/-- Settles O17: the word written is the unsigned difference, taken in the integers, modulo 2^32. -/
theorem subuWritesDifferenceModulo : Obligations.SubuWritesDifferenceModulo := by
  refine ⟨fun _ => decode_of_meetsR3 (row_mem "SUBU" rfl), fun rd rs rt s off =>
    exec_onlyReg off (exec_subu rd rs rt s) ?_⟩
  rw [← ofInt_toNat_sub, natCast_toNat_ofInt]

/-! ### The equivalences (R107, R127, R149) -/

/-- R107, item 5: the destination of SUBU holds the sum with the complement plus one. -/
theorem exec_subu_eq_add_not {rd : Reg} {s : State} (off : s.pc ≠ Config.lastWord) (hrd : rd ≠ 0#5) (rs rt : Reg) :
    ∃ t, exec (.subu rd rs rt) s = .next t ∧ t.readReg rd = s.readReg rs + (~~~(s.readReg rt) + 1#32) := by
  obtain ⟨t, ht, takes, -⟩ := finish_writeReg_onlyReg off rd (s.readReg rs - s.readReg rt)
  refine ⟨t, (exec_subu rd rs rt s).trans ht, ?_⟩
  rw [takes rd, if_pos ⟨rfl, hrd⟩, BitVec.sub_eq_add_neg, BitVec.neg_eq_not_add]

/-- R107, item 5: the negation of -2^31 does not fit. -/
theorem exec_sub_zero_min_raises {rt : Reg} {s : State} (hrt : s.readReg rt = 0x80000000#32) (rd : Reg) :
    ∃ t, exec (.sub rd 0#5 rt) s = .next t ∧ Raised s t .integerOverflow := by
  refine exec_raised (overflowOf_of_not_fits ?_)
  rw [readReg_zero, hrt]
  decide

/-- Settles O18: both forms of an instruction write the same word where the exact result fits. -/
theorem nonRaisingFormsAgreeWithUnsignedForms : Obligations.NonRaisingFormsAgreeWithUnsignedForms := by
  refine ⟨fun rd rs rt s quiet => ?_, fun rt rs imm s quiet => ?_, fun rd rs rt s quiet => ?_,
    fun rd rs rt s off hrd => exec_subu_eq_add_not off hrd rs rt, fun rd rt s hrt => exec_sub_zero_min_raises hrt rd⟩
  · rw [exec_add_of_fits (fits_of_overflowOf_eq_none quiet), exec_addu]
  · rw [exec_addi_of_fits (fits_of_overflowOf_eq_none quiet), exec_addiu]
  · rw [exec_sub_of_fits (fits_of_overflowOf_eq_none quiet), exec_subu]

/-- Settles O21: the value each instruction writes, or tests, is a commutative operation on the two operands. -/
theorem commutativeInRsAndRt : Obligations.CommutativeInRsAndRt := by
  intro rd rs rt s
  have writes {v v' : Word} (h : v = v') : s.finish (s.writeReg rd v) = s.finish (s.writeReg rd v') := by rw [h]
  refine ⟨congrArg (s.finishTrapping rd) (addTemp_comm _ _), ?addu, writes (BitVec.and_comm _ _),
    writes (BitVec.or_comm _ _), writes (BitVec.xor_comm _ _), writes (congrArg (~~~ ·) (BitVec.or_comm _ _)),
    ?mult, ?multu, ?mul⟩
  case addu => rw [exec_addu, exec_addu, BitVec.add_comm]
  case mult => rw [exec, exec, execMult, execMult, Int.mul_comm]
  case multu => rw [exec, exec, execMultu, execMultu, Nat.mul_comm]
  case mul => rw [exec, exec, execMul, execMul, Int.mul_comm]

end Sys2Proof.Machine
end

section
/-! Bitwise logical instructions (41_logical.md): the bits of NOR and of an operation with a zero-extended immediate,
and what each of the seven instructions writes. -/

namespace Sys2Proof.Machine

/-! ### The bits of the results -/

theorem getLsbD_nor (a b : Word) {k : Nat} (hk : k < 32) :
    (~~~(a ||| b)).getLsbD k = !(a.getLsbD k || b.getLsbD k) := by
  rw [BitVec.getLsbD_not, BitVec.getLsbD_or, decide_eq_true hk, Bool.true_and]

/-- R121: above the immediate ANDI clears. -/
theorem getLsbD_and_zimm (a : Word) (imm : Imm16) (k : Nat) :
    (a &&& zimm imm).getLsbD k = if k < 16 then a.getLsbD k && imm.getLsbD k else false := by
  rw [BitVec.getLsbD_and, getLsbD_zimm]
  split
  · rfl
  · exact Bool.and_false _

/-- R124: above the immediate ORI keeps the source. -/
theorem getLsbD_or_zimm (a : Word) (imm : Imm16) (k : Nat) :
    (a ||| zimm imm).getLsbD k = if k < 16 then a.getLsbD k || imm.getLsbD k else a.getLsbD k := by
  rw [BitVec.getLsbD_or, getLsbD_zimm]
  split
  · rfl
  · exact Bool.or_false _

/-- R126: above the immediate XORI keeps the source. -/
theorem getLsbD_xor_zimm (a : Word) (imm : Imm16) (k : Nat) :
    (a ^^^ zimm imm).getLsbD k = if k < 16 then a.getLsbD k != imm.getLsbD k else a.getLsbD k := by
  rw [BitVec.getLsbD_xor, getLsbD_zimm]
  split
  · rfl
  · exact Bool.xor_false _

/-! ### The statements -/

/-- An instruction that ends with one register written leaves that write alone, its word known bit by bit. -/
theorem exec_onlyReg_bits {i : Instr} {s : State} {d : Reg} {v : Word} {bit : Nat → Bool}
    (off : s.pc ≠ Config.lastWord) (runs : exec i s = s.finish (s.writeReg d v))
    (bits : ∀ k, k < 32 → v.getLsbD k = bit k) :
    ∃ v t, exec i s = .next t ∧ OnlyReg s t d v ∧ ∀ k, k < 32 → v.getLsbD k = bit k := by
  obtain ⟨v, t, ht, known, only⟩ := exec_onlyReg (P := fun v => ∀ k, k < 32 → v.getLsbD k = bit k) off runs bits
  exact ⟨v, t, ht, only, known⟩

/-- Settles O19: each of the four writes the word operation, whose bits are those of the operands combined. -/
theorem logicalRegisterFormsWorkBitByBit : Obligations.LogicalRegisterFormsWorkBitByBit := by
  refine ⟨fun w => ⟨decode_of_meetsR3 (row_mem "AND" rfl), decode_of_meetsR3 (row_mem "OR" rfl),
    decode_of_meetsR3 (row_mem "XOR" rfl), decode_of_meetsR3 (row_mem "NOR" rfl)⟩, fun rd rs rt s off =>
    ⟨?and, ?or, ?xor, ?nor⟩⟩
  case and => exact exec_onlyReg_bits off rfl fun _ _ => BitVec.getLsbD_and
  case or => exact exec_onlyReg_bits off rfl fun _ _ => BitVec.getLsbD_or
  case xor => exact exec_onlyReg_bits off rfl fun _ _ => BitVec.getLsbD_xor
  case nor => exact exec_onlyReg_bits off rfl fun _ hk => getLsbD_nor _ _ hk

/-- Settles O20: each of the three writes the word operation with `zimm`, whose upper half is zero. -/
theorem logicalImmediateFormsZeroExtend : Obligations.LogicalImmediateFormsZeroExtend := by
  refine ⟨fun w => ⟨decode_of_meetsI (row_mem "ANDI" rfl), decode_of_meetsI (row_mem "ORI" rfl),
    decode_of_meetsI (row_mem "XORI" rfl)⟩, fun rt rs imm s off => ⟨?andi, ?ori, ?xori⟩⟩
  case andi => exact exec_onlyReg_bits off rfl fun k _ => getLsbD_and_zimm _ imm k
  case ori => exact exec_onlyReg_bits off rfl fun k _ => getLsbD_or_zimm _ imm k
  case xori => exact exec_onlyReg_bits off rfl fun k _ => getLsbD_xor_zimm _ imm k

end Sys2Proof.Machine
end

section
/-! Multiply and divide (42_mul_div.md): the quotient, remainder and product as the words HI and LO hold, what an
instruction leaves that writes or draws HI and LO, and what each of the five instructions does. -/

namespace Sys2Proof

/-- R65: the operands of a word that meets a row of format MD. -/
theorem decode_of_meetsMD {name : String} {p : Word} {mk : Reg → Reg → Instr} (row : rowMD name p mk ∈ opcodeRows)
    {w : Word} (meets : w &&& 0xFC00FFFF#32 = p) : decode w = .ok (mk (w.extractLsb' 21 5) (w.extractLsb' 16 5)) :=
  decode_of_row row meets

namespace Machine

/-! ### Division in the integers (R141) -/

/-- The quotient of R141 is the library's truncating quotient: they agree in sign and in magnitude. -/
theorem tdiv_eq_int_tdiv (n d : Int) : tdiv n d = n.tdiv d := by
  have magnitude : (n.tdiv d).natAbs = n.natAbs / d.natAbs := Int.natAbs_tdiv n d
  rw [← Int.sign_mul_natAbs (n.tdiv d), Int.sign_tdiv, magnitude, tdiv]
  split
  case isTrue smaller => simp [Nat.div_eq_of_lt smaller]
  case isFalse => rfl

theorem tmod_eq_int_tmod (n d : Int) : tmod n d = n.tmod d := by
  rw [tmod, tdiv_eq_int_tdiv, Int.tmod_def, Int.mul_comm]

theorem tdiv_mul_add_tmod (n d : Int) : n = tdiv n d * d + tmod n d := by
  rw [tmod]
  omega

theorem natAbs_tmod_lt (n : Int) {d : Int} (nonzero : d ≠ 0) : (tmod n d).natAbs < d.natAbs := by
  rw [tmod_eq_int_tmod, Int.natAbs_tmod]
  exact Nat.mod_lt _ (Int.natAbs_pos.2 nonzero)

/-- R141: "the remainder has the sign of the dividend (or is zero)". -/
theorem tmod_eq_zero_or_sign (n d : Int) : tmod n d = 0 ∨ (tmod n d).sign = n.sign := by
  rw [tmod_eq_int_tmod]
  by_cases divides : d ∣ n
  · exact .inl (Int.tmod_eq_zero_of_dvd divides)
  · exact .inr (by rw [Int.sign_tmod, if_neg divides])

/-- Of two words only -2^31 and -1 have a quotient that a word cannot hold (R142). -/
theorem toInt_ofInt_tdiv {a b : Word} (fits : ¬ (a.toInt = -2147483648 ∧ b.toInt = -1)) :
    (BitVec.ofInt 32 (tdiv a.toInt b.toInt)).toInt = tdiv a.toInt b.toInt := by
  have apart : a ≠ BitVec.intMin 32 ∨ b ≠ -1#32 := by
    by_contra both
    obtain ⟨rfl, rfl⟩ : a = BitVec.intMin 32 ∧ b = -1#32 := by simpa using both
    exact fits (by decide)
  rw [tdiv_eq_int_tdiv, ← BitVec.toInt_sdiv_of_ne_or_ne a b apart, BitVec.ofInt_toInt]

theorem toInt_ofInt_tmod (a b : Word) : (BitVec.ofInt 32 (tmod a.toInt b.toInt)).toInt = tmod a.toInt b.toInt := by
  rw [tmod_eq_int_tmod, ← BitVec.toInt_srem, BitVec.ofInt_toInt]

/-! ### Products (R145 to R147) -/

theorem ofInt_toInt_mul (a b : Word) : BitVec.ofInt 32 (a.toInt * b.toInt) = a * b := by
  rw [BitVec.ofInt_mul, BitVec.ofInt_toInt, BitVec.ofInt_toInt]

theorem toInt_ofInt_mul (a b : Word) : (BitVec.ofInt 64 (a.toInt * b.toInt)).toInt = a.toInt * b.toInt := by
  have lower := BitVec.le_toInt_mul_toInt (x := a) (y := b)
  have upper := BitVec.toInt_mul_toInt_le (x := a) (y := b)
  exact BitVec.toInt_ofInt_eq_self (by decide) (by omega) (by omega)

theorem toNat_ofNat_mul (a b : Word) : (BitVec.ofNat 64 (a.toNat * b.toNat)).toNat = a.toNat * b.toNat := by
  rw [BitVec.toNat_ofNat, Nat.mod_eq_of_lt BitVec.toNat_mul_toNat_lt]

/-- The low word of the signed product is the word product. -/
theorem lowWord_ofInt_mul (a b : Word) : (BitVec.ofInt 64 (a.toInt * b.toInt)).extractLsb' 0 32 = a * b := by
  rw [← ofInt_toInt_mul]
  apply BitVec.eq_of_toNat_eq
  rw [BitVec.extractLsb'_toNat, Nat.shiftRight_zero, BitVec.toNat_ofInt, BitVec.toNat_ofInt]
  omega

/-- The low word of the unsigned product is the word product. -/
theorem lowWord_ofNat_mul (a b : Word) : (BitVec.ofNat 64 (a.toNat * b.toNat)).extractLsb' 0 32 = a * b := by
  apply BitVec.eq_of_toNat_eq
  rw [BitVec.extractLsb'_toNat, Nat.shiftRight_zero, toNat_ofNat_mul, BitVec.toNat_mul]

/-! ### What an instruction leaves that writes or draws HI and LO -/

/-- R27: writes that touch none of the fixed parts, with the pc advanced, complete an instruction. -/
theorem completed_setPc {s t : State} (fixed : SameFixed s t) : Completed s (t.setPc (s.pc + 4#32)) := by
  obtain ⟨hstatus, hmem, hparams, hcp0⟩ := fixed
  exact ⟨rfl, hstatus, hcp0, fun a => congrArg (Memory.read · a) hmem, hparams⟩

/-- Two draws, in either order, into HI and LO. -/
theorem drewHiLo_of_two {s t : State} {j k : Nat} (count : t.draws = s.draws + 2) (hj : j < 2) (hk : k < 2)
    (apart : j ≠ k) (hi : t.hi = s.drawn j) (lo : t.lo = s.drawn k) : DrewHiLo s t :=
  ⟨s.draws + j, s.draws + k, by omega, by omega, by omega, by omega, by omega, hi, lo⟩

/-- R148: off the last word, an instruction that ends with HI and LO drawn leaves the two draws and nothing else. -/
theorem exec_drawLoHi {i : Instr} {s : State} (off : s.pc ≠ Config.lastWord)
    (runs : exec i s = s.finish s.drawLoHi) :
    ∃ t, exec i s = .next t ∧ SameRegs s t ∧ DrewHiLo s t ∧ t.draws = s.draws + 2 ∧ Completed s t :=
  ⟨_, runs.trans (finish_completes off _), fun _ => rfl,
    drewHiLo_of_two (j := 1) (k := 0) rfl (by decide) (by decide) (by decide) rfl rfl, rfl,
    completed_setPc (sameFixed_drawLoHi s)⟩

/-- The same without the count of draws. -/
theorem exec_drewHiLo {i : Instr} {s : State} (off : s.pc ≠ Config.lastWord)
    (runs : exec i s = s.finish s.drawLoHi) :
    ∃ t, exec i s = .next t ∧ SameRegs s t ∧ DrewHiLo s t ∧ Completed s t := by
  obtain ⟨t, ht, regs, drew, -, done⟩ := exec_drawLoHi off runs
  exact ⟨t, ht, regs, drew, done⟩

/-- R27: off the last word, an instruction that ends with HI and LO written leaves that write and nothing else. -/
theorem exec_onlyHiLo {i : Instr} {s : State} {hi lo : Word} (off : s.pc ≠ Config.lastWord)
    (runs : exec i s = s.finish (s.setHiLo hi lo)) : ∃ t, exec i s = .next t ∧ OnlyHiLo s t hi lo :=
  ⟨_, runs.trans (finish_completes off _), fun _ => rfl, rfl, rfl, rfl, completed_setPc (sameFixed_setHiLo s hi lo)⟩

/-- The same with what is known of a state that holds those words in HI and LO. -/
theorem exec_onlyHiLo_known {i : Instr} {s : State} {hi lo : Word} {P : State → Prop} (off : s.pc ≠ Config.lastWord)
    (runs : exec i s = s.finish (s.setHiLo hi lo)) (known : ∀ t : State, t.hi = hi → t.lo = lo → P t) :
    ∃ t, exec i s = .next t ∧ OnlyHiLo s t t.hi t.lo ∧ P t := by
  obtain ⟨t, ht, regs, rfl, rfl, rest⟩ := exec_onlyHiLo off runs
  exact ⟨t, ht, ⟨regs, rfl, rfl, rest⟩, known t rfl rfl⟩

/-- R146, R147: an instruction that ends with a product put into HI and LO holds in them the whole product. -/
theorem exec_setProduct {i : Instr} {s : State} {prod : BitVec 64} {P : BitVec 64 → Prop}
    (off : s.pc ≠ Config.lastWord) (runs : exec i s = s.finish (s.setProduct prod)) (known : P prod) :
    ∃ t, exec i s = .next t ∧ OnlyHiLo s t t.hi t.lo ∧ P (t.hi ++ t.lo) := by
  refine exec_onlyHiLo_known off runs fun t hhi hlo => ?_
  have whole : t.hi ++ t.lo = prod := by
    rw [hhi, hlo]
    exact BitVec.extractLsb'_append_extractLsb'
  rwa [whole]

/-- R145: the destination takes the word product, HI and LO are drawn. -/
theorem exec_mul {s : State} (off : s.pc ≠ Config.lastWord) (rd rs rt : Reg) :
    ∃ t, exec (.mul rd rs rt) s = .next t ∧ RegTakes s t rd (s.readReg rs * s.readReg rt) ∧ DrewHiLo s t ∧
      Completed s t := by
  rw [← ofInt_toInt_mul]
  refine ⟨_, finish_completes off _, readReg_writeReg s rd _, ?_, completed_setPc (sameFixed_writeReg_draw s rd _)⟩
  exact drewHiLo_of_two (j := 0) (k := 1) (by simp) (by decide) (by decide) (by decide) (by simp [State.drawn])
    (by simp [State.drawn])

/-! ### The statements -/

/-- Settles O22: the four cases of R143, the last by the truncating division of the library. -/
theorem divWritesQuotientAndRemainder : Obligations.DivWritesQuotientAndRemainder := by
  refine ⟨fun _ => decode_of_meetsMD (row_mem "DIV" rfl), fun rs rt s off =>
    ⟨fun zero => exec_drewHiLo off (execDiv_zero zero), fun hn hd drawn => ?drawn, fun hi lo hn hd given => ?given,
      fun nonzero fits => exec_onlyHiLo_known off (execDiv_exact nonzero fits) fun t hhi hlo => ?divides⟩⟩
  case drawn =>
    have runs := execDiv_overflow ⟨hn, hd⟩
    rw [divOverflowResult_drawn drawn] at runs
    exact exec_drewHiLo off runs
  case given =>
    have runs := execDiv_overflow ⟨hn, hd⟩
    rw [divOverflowResult_given given] at runs
    exact exec_onlyHiLo off runs
  case divides =>
    rw [hhi, hlo, toInt_ofInt_tdiv fits, toInt_ofInt_tmod]
    exact ⟨rfl, tdiv_mul_add_tmod _ _, natAbs_tmod_lt _ nonzero, tmod_eq_zero_or_sign _ _⟩

/-- Settles O23: neither the quotient nor the remainder exceeds the dividend, so both fit a word. -/
theorem divuWritesQuotientAndRemainder : Obligations.DivuWritesQuotientAndRemainder := by
  refine ⟨fun _ => decode_of_meetsMD (row_mem "DIVU" rfl), fun rs rt s off =>
    ⟨fun zero => exec_drewHiLo off (execDivu_zero zero),
      fun nonzero => exec_onlyHiLo_known off (execDivu_exact nonzero) fun t hhi hlo => ?_⟩⟩
  have dividend := (s.readReg rs).isLt
  rw [← Nat.mod_def] at hhi
  rw [hhi, hlo, BitVec.toNat_ofNat, BitVec.toNat_ofNat]
  exact ⟨Nat.mod_eq_of_lt ((Nat.div_le_self _ _).trans_lt dividend),
    Nat.mod_eq_of_lt ((Nat.mod_le _ _).trans_lt dividend)⟩

/-- Settles O24: both instructions end with HI and LO drawn. -/
theorem zeroDivisorDrawsHiAndLo : Obligations.ZeroDivisorDrawsHiAndLo := by
  rintro i rs rt s (rfl | rfl) zero
  · exact ⟨rfl, fun off => exec_drawLoHi off (execDiv_zero (congrArg BitVec.toInt zero))⟩
  · exact ⟨rfl, fun off => exec_drawLoHi off (execDivu_zero (congrArg BitVec.toNat zero))⟩

/-- Settles O25: the word product is both products modulo 2^32. -/
theorem mulWritesLowWordAndDrawsHiLo : Obligations.MulWritesLowWordAndDrawsHiLo := by
  refine ⟨fun _ => decode_of_meetsR3 (row_mem "MUL" rfl), fun rd rs rt s off => ?_⟩
  obtain ⟨t, ht, takes, drew, done⟩ := exec_mul off rd rs rt
  refine ⟨_, t, ht, takes, drew, done, ?_, BitVec.toNat_mul _ _⟩
  rw [← ofInt_toInt_mul, natCast_toNat_ofInt]

/-- Settles O26: the product of two words fits 64 bits, signed and unsigned. -/
theorem multAndMultuWriteExactProduct : Obligations.MultAndMultuWriteExactProduct :=
  ⟨fun _ => ⟨decode_of_meetsMD (row_mem "MULT" rfl), decode_of_meetsMD (row_mem "MULTU" rfl)⟩, fun rs rt s off =>
    ⟨exec_setProduct (P := fun p => p.toInt = (s.readReg rs).toInt * (s.readReg rt).toInt) off rfl
        (toInt_ofInt_mul _ _),
      exec_setProduct (P := fun p => p.toNat = (s.readReg rs).toNat * (s.readReg rt).toNat) off rfl
        (toNat_ofNat_mul _ _)⟩⟩

/-- Settles O27: all three hold the word product. -/
theorem mulAgreesWithLoOfMultAndMultu : Obligations.MulAgreesWithLoOfMultAndMultu := by
  intro rd rs rt s off hrd
  obtain ⟨t, ht, takes, -⟩ := exec_mul off rd rs rt
  have holds : t.readReg rd = s.readReg rs * s.readReg rt := (takes rd).trans (if_pos ⟨rfl, hrd⟩)
  exact ⟨t, _, _, ht, finish_completes off _, finish_completes off _, holds.trans (lowWord_ofInt_mul _ _).symm,
    holds.trans (lowWord_ofNat_mul _ _).symm⟩

end Machine

end Sys2Proof
end

section
/-! Shifts by a constant (43_shift_nop.md): the three shifted words as a product and as quotients by a power of two, and
what each of the three instructions writes. -/

namespace Sys2Proof

/-- R64: the operands of a word that meets a row of format SH. -/
theorem decode_of_meetsSH {name : String} {p : Word} {mk : Reg → Reg → Shamt → Instr}
    (row : rowSH name p mk ∈ opcodeRows) {w : Word} (meets : w &&& 0xFFE0003F#32 = p) :
    decode w = .ok (mk (w.extractLsb' 11 5) (w.extractLsb' 16 5) (w.extractLsb' 6 5)) :=
  decode_of_row row meets

namespace Machine

/-! ### Shifted words as numbers -/

theorem toNat_shiftLeft_eq_mul_pow (a : Word) (n : Nat) : (a <<< n).toNat = a.toNat * 2 ^ n % 2 ^ 32 := by
  rw [BitVec.toNat_shiftLeft, Nat.shiftLeft_eq]

theorem toNat_ushiftRight_eq_div_pow (a : Word) (n : Nat) : (a >>> n).toNat = a.toNat / 2 ^ n := by
  rw [BitVec.toNat_ushiftRight, Nat.shiftRight_eq_div_pow]

/-- The divisor is positive, so the arithmetic shift rounds toward minus infinity. -/
theorem toInt_sshiftRight_eq_fdiv_pow (a : Word) (n : Nat) :
    (a.sshiftRight n).toInt = a.toInt.fdiv (2 ^ n) := by
  have positive : (0 : Int) ≤ 2 ^ n := by positivity
  rw [BitVec.toInt_sshiftRight, Int.shiftRight_eq_div_pow, Int.fdiv_eq_ediv_of_nonneg _ positive]
  norm_cast

/-! ### The statements -/

/-- An instruction that ends with one register written leaves that write alone, with what is known of its word. -/
theorem exec_onlyReg_known {i : Instr} {s : State} {d : Reg} {v : Word} {P : Word → Prop}
    (off : s.pc ≠ Config.lastWord) (runs : exec i s = s.finish (s.writeReg d v)) (known : P v) :
    ∃ v t, exec i s = .next t ∧ OnlyReg s t d v ∧ P v := by
  obtain ⟨v, t, ht, known, only⟩ := exec_onlyReg off runs known
  exact ⟨v, t, ht, only, known⟩

/-- Settles O28: each zero entering on the right doubles the word, and what leaves it on the left is dropped. -/
theorem sllMultipliesByPowerOfTwo : Obligations.SllMultipliesByPowerOfTwo :=
  ⟨fun _ => decode_of_meetsSH (row_mem "SLL" rfl), fun _ _ sa _ off =>
    exec_onlyReg_known off rfl (toNat_shiftLeft_eq_mul_pow _ sa.toNat)⟩

/-- Settles O29: copies of the sign bit entering on the left make the quotient the floor. -/
theorem sraDividesSignedByPowerOfTwo : Obligations.SraDividesSignedByPowerOfTwo :=
  ⟨fun _ => decode_of_meetsSH (row_mem "SRA" rfl), fun _ _ sa _ off =>
    exec_onlyReg_known off rfl (toInt_sshiftRight_eq_fdiv_pow _ sa.toNat)⟩

/-- Settles O30: each zero entering on the left halves the unsigned word and drops the remainder. -/
theorem srlDividesUnsignedByPowerOfTwo : Obligations.SrlDividesUnsignedByPowerOfTwo :=
  ⟨fun _ => decode_of_meetsSH (row_mem "SRL" rfl), fun _ _ sa _ off =>
    exec_onlyReg_known off rfl (toNat_ushiftRight_eq_div_pow _ sa.toNat)⟩

end Machine

end Sys2Proof
end

section
/-! Set on less than (44_set_less_than.md): the Boolean word of a comparison, the signed against the unsigned order, and
what each of the four instructions writes. -/

namespace Sys2Proof.Machine

/-! ### The Boolean word (R180) -/

theorem boolWord_decide (p : Prop) [Decidable p] : boolWord (decide p) = if p then 1#32 else 0#32 := by
  simp only [boolWord, decide_eq_true_eq]

theorem boolWord_eq_zero_or_one : ∀ b : Bool, boolWord b = 0#32 ∨ boolWord b = 1#32 := by decide

@[simp] theorem boolWord_inj : ∀ {b c : Bool}, boolWord b = boolWord c ↔ b = c := by decide

@[simp] theorem boolWord_eq_zero : ∀ {b : Bool}, boolWord b = 0#32 ↔ b = false := by decide

/-! ### The two orders on words -/

/-- R182: the sign-extended immediate read unsigned is its signed value modulo 2^32. -/
theorem natCast_toNat_simm (imm : Imm16) : ((simm imm).toNat : Int) = imm.toInt % 2 ^ 32 := by
  rw [← toInt_simm, ← natCast_toNat_ofInt, BitVec.ofInt_toInt]

theorem xor_eq_right_iff : ∀ x y : Bool, (x ^^ y) = y ↔ x = false := by decide

/-- The signed and the unsigned comparison differ by the exclusive or of the sign bits. -/
theorem signed_lt_eq_unsigned_lt_iff (a b : Word) :
    decide (a.toInt < b.toInt) = decide (a.toNat < b.toNat) ↔ a.getLsbD 31 = b.getLsbD 31 := by
  have slt_eq_ult : decide (a.toInt < b.toInt) = ((a.msb != b.msb) ^^ decide (a.toNat < b.toNat)) :=
    BitVec.slt_eq_ult
  rw [slt_eq_ult, xor_eq_right_iff, bne_eq_false_iff_eq, BitVec.msb_eq_getLsbD_last, BitVec.msb_eq_getLsbD_last]

theorem signed_not_lt_both_iff (a b : Word) :
    decide (a.toInt < b.toInt) = false ∧ decide (b.toInt < a.toInt) = false ↔ a = b := by
  rw [decide_eq_false_iff_not, decide_eq_false_iff_not, ← BitVec.toInt_inj]
  omega

/-! ### The statements -/

/-- A comparison writes 1 or 0 to its destination and nothing else. -/
theorem exec_onlyReg_decide {i : Instr} {s : State} {d : Reg} {p : Prop} [Decidable p]
    (off : s.pc ≠ Config.lastWord) (runs : exec i s = s.finish (s.writeReg d (boolWord (decide p)))) :
    ∃ t, exec i s = .next t ∧ OnlyReg s t d (if p then 1#32 else 0#32) := by
  rw [runs, ← boolWord_decide]
  exact finish_writeReg_onlyReg off d _

/-- Settles O32: each of the two writes the Boolean word of its comparison. -/
theorem sltAndSltuRecordComparison : Obligations.SltAndSltuRecordComparison :=
  ⟨fun _ => ⟨decode_of_meetsR3 (row_mem "SLT" rfl), decode_of_meetsR3 (row_mem "SLTU" rfl)⟩, fun _ _ _ _ off =>
    ⟨exec_onlyReg_decide off rfl, exec_onlyReg_decide off rfl⟩⟩

/-- Settles O33: the immediate extended keeps its signed value, and unsigned it is that value modulo 2^32. -/
theorem sltiAndSltiuRecordComparison : Obligations.SltiAndSltiuRecordComparison := by
  refine ⟨fun w => ⟨decode_of_meetsI (row_mem "SLTI" rfl), decode_of_meetsI (row_mem "SLTIU" rfl)⟩,
    fun rt rs imm s off => ⟨?slti, ?sltiu⟩⟩
  case slti =>
    simp only [← toInt_simm]
    exact exec_onlyReg_decide off rfl
  case sltiu =>
    simp only [← natCast_toNat_simm, Int.ofNat_lt]
    exact exec_onlyReg_decide off rfl

/-- A destination other than register 0 holds the word an instruction ended by writing to it. -/
theorem exec_readReg_written {i : Instr} {s : State} {d : Reg} {v : Word} (off : s.pc ≠ Config.lastWord)
    (hd : d ≠ 0#5) (runs : exec i s = s.finish (s.writeReg d v)) : ∃ t, exec i s = .next t ∧ t.readReg d = v := by
  obtain ⟨t, ht, takes, -⟩ := finish_writeReg_onlyReg off d v
  exact ⟨t, runs.trans ht, (takes d).trans (if_pos ⟨rfl, hd⟩)⟩

/-- Settles O34: the two orders differ where the sign bits do, and the signed one is total on words. -/
theorem sltAndSltuAgreeOnEqualSigns : Obligations.SltAndSltuAgreeOnEqualSigns := by
  intro rd rs rt s off hrd
  obtain ⟨t, ht, slt⟩ := exec_readReg_written (i := .slt rd rs rt) off hrd rfl
  obtain ⟨u, hu, sltu⟩ := exec_readReg_written (i := .sltu rd rs rt) off hrd rfl
  obtain ⟨v, hv, sltSwapped⟩ := exec_readReg_written (i := .slt rd rt rs) off hrd rfl
  refine ⟨t, u, v, ht, hu, hv, ?_⟩
  rw [slt, sltu, sltSwapped]
  exact ⟨boolWord_eq_zero_or_one _, boolWord_inj.trans (signed_lt_eq_unsigned_lt_iff _ _),
    (and_congr boolWord_eq_zero boolWord_eq_zero).trans (signed_not_lt_both_iff _ _)⟩

end Sys2Proof.Machine
end

section
/-! System call (45_syscall.md): the code a word carries, and the code a run that ended at a SYSCALL names. -/

namespace Sys2Proof

/-- R66: a word that decodes to a SYSCALL carries that SYSCALL's code, since it is the word the SYSCALL assembles to. -/
theorem sysCode_of_decode_eq_syscall {w : Word} {code : SysCode} (hdec : decode w = .ok (.syscall code)) :
    w.sysCode = code := by
  obtain ⟨-, assembles⟩ := encodeDecodeRoundTrip w (.syscall code) hdec
  exact assembles ▸ sysCode_encodeSys code

namespace Machine

/-- R200: the code is read off the program text at the address the run ended at. -/
theorem trapCode_of_trapped {t : State} {a w : Word} (trapped : t.status = .trapped .systemCall a)
    (text : t.mem.fetchWord t.params.bigEndian a.toNat = some w) : t.trapCode = some w.sysCode := by
  simp only [State.trapCode, trapped, text]

/-- R200, R212: by the default of `trap_entry`, a SYSCALL ends the run naming the code of the word at the pc. -/
theorem trapCode_takeException_systemCall {s : State} {w : Word} (htrap : s.params.trapEntry = .endRun)
    (hfetch : s.fetch = some w) : (s.takeException .systemCall).trapCode = some w.sysCode := by
  rw [takeException_endRun htrap]
  exact trapCode_of_trapped rfl hfetch

/-- Settles O35: the mask and match are a row of the table, the table of R210 has SYSCALL raise in every state, and the
raise leaves the program text and the pc the code is read from. -/
theorem syscallAlwaysRaises : Obligations.SyscallAlwaysRaises := by
  refine ⟨fun _ => decode_of_row (row_mem "SYSCALL" rfl), fun _ _ => exec_raised rfl,
    fun code s w hrun htrap hfetch hdec => ⟨s.takeException .systemCall, ?step, ?code⟩⟩
  case step => rw [step_of_decode_ok hrun hfetch hdec, exec_of_raises rfl]
  case code => rw [trapCode_takeException_systemCall htrap hfetch, sysCode_of_decode_eq_syscall hdec]

end Machine

end Sys2Proof
end

section
/-! Exceptions (60_exceptions.md): the status of an instruction that does not raise, the one way a step ends `Trapped`,
entry into a handler and the return from it, and the runs that end `Trapped`. -/

namespace Sys2Proof.Machine

/-! ### When an instruction or a step ends `Trapped` -/

/-- R210: an instruction that does not raise ends no run as Trapped. -/
theorem exec_not_trapped_of_not_raises {i : Instr} {s t : State} (hrun : s.status = .running)
    (hr : i.raises s = none) (h : exec i s = .next t) (c : ExcCause) (a : Word) : t.status ≠ .trapped c a := by
  obtain ⟨-, hstatus⟩ := exec_cp0_status_of_not_raises h hr
  intro htrap
  rcases hstatus with hst | hst
  · cases hrun.symm.trans (hst.symm.trans htrap)
  · cases hst.symm.trans htrap

/-- R212, R216: by the default of `trap_entry`, the one way a step ends Trapped: the word at the pc is an instruction that
raises, and the status alone changes. -/
theorem raises_of_step_trapped {s t : State} {c : ExcCause} {a : Word} (htrap : s.params.trapEntry = .endRun)
    (hstep : step s = .next t) (hst : t.status = .trapped c a) :
    t = { s with status := .trapped c s.pc } ∧ a = s.pc ∧
      ∃ w i, s.fetch = some w ∧ decode w = .ok i ∧ i.raises s = some c := by
  have hrun := running_of_step hstep
  rcases step_cases hrun with ⟨-, h⟩ | ⟨w, e, -, -, h⟩ | ⟨w, i, hfetch, hdec, h⟩
  · cases h.symm.trans hstep
    cases hst
  · cases h.symm.trans hstep
    cases hst
  · have hexec := h.symm.trans hstep
    cases hr : i.raises s with
    | none => exact absurd hst (exec_not_trapped_of_not_raises hrun hr hexec c a)
    | some c' =>
      rw [exec_of_raises hr, takeException_endRun htrap] at hexec
      cases hexec
      cases hst
      exact ⟨rfl, rfl, w, i, hfetch, hdec, hr⟩

/-- Settles O36: a raising instruction takes its exception, and one that does not leaves CP0 and ends in no trap. -/
theorem instructionsRaiseExactlyByTheTable : Obligations.InstructionsRaiseExactlyByTheTable := by
  intro i s
  refine ⟨fun c hc => exec_raised hc, fun hr hrun => ?_⟩
  obtain ⟨t, ht⟩ := exec_next i s
  obtain ⟨hcp0, -⟩ := exec_cp0_status_of_not_raises ht hr
  exact ⟨t, ht, hcp0, exec_not_trapped_of_not_raises hrun hr ht⟩

/-- Settles O37: only an exception ends a step Trapped, and only a Running state steps. -/
theorem trappedStateIsStateBeforeInstruction : Obligations.TrappedStateIsStateBeforeInstruction := by
  intro s t c a _ htrap hstep hst
  obtain ⟨before, -, -⟩ := raises_of_step_trapped htrap hstep hst
  exact ⟨before, fun u hu => by cases (running_of_step hu).symm.trans hst⟩

/-- Settles O41: the first two tests are the step's own, the last three those of the instruction it runs. -/
theorem stepTestsInOrder : Obligations.StepTestsInOrder := by
  intro s hrun
  refine ⟨step_of_fetch_none hrun, fun w hfetch undec => ?undecodable, fun w i c hfetch hdec hr => ?raise,
    fun w i hfetch hdec hr top => ?wrap, fun w i hfetch hdec hr off => ?write⟩
  case undecodable =>
    cases hdec : decode w with
    | error e => exact step_of_decode_error hrun hfetch hdec
    | ok i => exact absurd hdec (undec i)
  all_goals rw [step_of_decode_ok hrun hfetch hdec]
  case raise => exact exec_raised hr
  case wrap => exact exec_wraps hr top
  case write =>
    obtain ⟨w, -, -, hexec⟩ := exec_completes hr off
    exact ⟨_, hexec, completed_setPc (sameFixed_apply w s)⟩

/-! ### Entry into a handler, and the return (R214, R215) -/

/-- R214, R215: the CP0 state after entry; with EXL set EPC and Cause.BD stay. -/
theorem enteredHandler_enter (before : Cp0) (c : ExcCause) (pc : Word) :
    EnteredHandler before (before.enter c pc) c pc :=
  ⟨by cases c <;> rfl, rfl, rfl, rfl, fun exlClear => by simp [Cp0.enter, exlClear],
    fun exlSet => by simp [Cp0.enter, exlSet]⟩

/-- R215: with EXL clear at the entry, the return resumes at the raising instruction. -/
theorem returnFromException_pc_of_entered {s t : State} {c : ExcCause} (exlClear : s.cp0.statusExl = false)
    (entered : EnteredHandler s.cp0 t.cp0 c s.pc) : t.returnFromException.pc = s.pc := by
  obtain ⟨-, -, -, -, recorded, -⟩ := entered
  obtain ⟨hepc, -⟩ := recorded exlClear
  exact hepc

/-- Settles O38: the exception is taken by the handler's branch, and the return takes the EPC it recorded. -/
theorem handlerEntryAndReturn : Obligations.HandlerEntryAndReturn := by
  intro i s c htrap hr
  have raised := raised_takeException s c
  have entered := enteredHandler_enter s.cp0 c s.pc
  rw [takeException_handler htrap] at raised
  refine ⟨_, (exec_of_raises hr).trans (congrArg _ (takeException_handler htrap c)), rfl, raised, entered, rfl,
    fun exlClear => ⟨returnFromException_pc_of_entered exlClear entered, rfl, fun _ => rfl⟩⟩

/-! ### Runs that end `Trapped` -/

/-- What every step keeps holds at the end of a run of any length. -/
theorem runFor_keeps {P : State → Prop} (step_keeps : ∀ s t, P s → step s = .next t → P t) (k : Nat) {s : State}
    (h : P s) : P (runFor k s) := by
  induction k generalizing s with
  | zero => exact h
  | succ k ih =>
    unfold runFor
    split
    · next t hstep => exact ih (step_keeps s t h hstep)
    · exact h
    · exact h

/-- R22, R210: whether an instruction raises depends on its inputs alone. -/
theorem raises_of_sameInputs {i : Instr} {s t : State} (same : SameInputs i s t) : i.raises t = i.raises s := by
  cases acts i s with
  | raises c acts =>
    obtain ⟨hs, -⟩ := acts s (.refl i s)
    obtain ⟨ht, -⟩ := acts t same
    exact ht.trans hs.symm
  | writes w _ _ acts =>
    obtain ⟨hs, -⟩ := acts s (.refl i s)
    obtain ⟨ht, -⟩ := acts t same
    exact ht.trans hs.symm

/-- An exception ends the run (the default of `trap_entry`), and where the run is Trapped the word at the pc, which the
status names, is an instruction that raises the exception named (R212). -/
def StopsWhereRaised (s : State) : Prop :=
  s.params.trapEntry = .endRun ∧ ∀ c a, s.status = .trapped c a →
    s.pc = a ∧ ∃ w i, s.fetch = some w ∧ decode w = .ok i ∧ i.raises s = some c

theorem step_keeps_stopsWhereRaised {s t : State} (h : StopsWhereRaised s) (hstep : step s = .next t) :
    StopsWhereRaised t := by
  obtain ⟨htrap, -⟩ := h
  obtain ⟨-, hparams⟩ := programTextNeverChanges s t hstep
  refine ⟨hparams ▸ htrap, fun c a hst => ?_⟩
  obtain ⟨rfl, rfl, w, i, hfetch, hdec, hr⟩ := raises_of_step_trapped htrap hstep hst
  have same : SameInputs i s { s with status := .trapped c s.pc } := ⟨fun _ _ => rfl, rfl⟩
  exact ⟨rfl, w, i, hfetch, hdec, (raises_of_sameInputs same).trans hr⟩

/-- Settles O58: a Running state is not Trapped, and every step keeps that a Trapped state stands where it was raised. -/
theorem trappedRunStoppedAtRaisingInstruction : Obligations.TrappedRunStoppedAtRaisingInstruction := by
  intro s k c a hrun htrap hst
  have start : StopsWhereRaised s := ⟨htrap, fun _ _ h => by cases hrun.symm.trans h⟩
  obtain ⟨-, stopped⟩ := runFor_keeps (fun _ _ => step_keeps_stopsWhereRaised) k start
  exact stopped c a hst

end Sys2Proof.Machine
end

section
/-! The launch state (R240), and the bound on a run (R246): an instruction after which the run goes on uses up the four
bytes at its pc. -/

namespace Sys2Proof.Machine

/-! ### The launch state -/

/-- R20: the registers 1 to 31 are the stored ones, in order. -/
theorem readReg_ofNat_succ (s : State) (k : Fin 31) : s.readReg (BitVec.ofNat 5 (k.val + 1)) = s.gpr[k.val] := by
  have number : (BitVec.ofNat 5 (k.val + 1)).toNat = k.val + 1 := by
    rw [BitVec.toNat_ofNat]
    omega
  have nonzero : BitVec.ofNat 5 (k.val + 1) ≠ 0#5 := fun h => by simp [h] at number
  have index : (regIndex (BitVec.ofNat 5 (k.val + 1))).val = k.val := by
    simp only [regIndex, number, Nat.add_sub_cancel]
  simp only [State.readReg, if_neg nonzero, index]

/-- Settles O55: the memory placed is the program's map, and a launch refused for its entry is not Running. -/
theorem launchStateIsAsGiven : Obligations.LaunchStateIsAsGiven := by
  intro p entry params gpr hi lo s
  refine ⟨Program.fetchWord_toMemory params.bigEndian, rfl, rfl, readReg_zero s, rfl, rfl, readReg_ofNat_succ s,
    fun aligned => if_pos aligned, fun misaligned => ?_⟩
  have refused : s.status = .refused .misalignedEntry := if_neg misaligned
  exact ⟨refused, fun t ht => by cases (running_of_step ht).symm.trans refused⟩

/-! ### The bytes a run has left -/

/-- How many bytes the memory holds at address `a` and above. -/
def Memory.bytesFrom (m : Memory) (a : Nat) : Nat := m.countP (fun c => a ≤ c.1)

theorem Memory.bytesFrom_succ_le (m : Memory) (a : Nat) : m.bytesFrom (a + 1) ≤ m.bytesFrom a :=
  List.countP_mono_left fun c _ h => by
    simp only [decide_eq_true_eq] at h ⊢
    omega

/-- A byte held at `a` is counted from `a` and no longer from `a + 1`. -/
theorem Memory.bytesFrom_succ_lt {m : Memory} {a : Nat} (held : (m.read a).isSome) :
    m.bytesFrom (a + 1) < m.bytesFrom a := by
  induction m with
  | nil => cases held
  | cons c rest ih =>
    obtain ⟨k, b⟩ := c
    have mono := Memory.bytesFrom_succ_le rest a
    unfold Memory.read at held
    unfold Memory.bytesFrom at *
    simp only [List.countP_cons, decide_eq_true_eq]
    split at held
    · next here => rw [if_neg (by omega), if_pos (by omega)]; omega
    · next apart =>
      have := ih held
      split <;> split <;> omega

/-- A word fetched at `a` accounts for four bytes. -/
theorem Memory.bytesFrom_add_four {m : Memory} {be : Bool} {a : Nat} {w : Word} (h : m.fetchWord be a = some w) :
    m.bytesFrom (a + 4) + 4 ≤ m.bytesFrom a := by
  obtain ⟨-, held⟩ := Memory.fetchWord_eq_some h
  have h0 : m.bytesFrom (a + 1) < m.bytesFrom a := Memory.bytesFrom_succ_lt (held 0 (by omega))
  have h1 : m.bytesFrom (a + 2) < m.bytesFrom (a + 1) := Memory.bytesFrom_succ_lt (held 1 (by omega))
  have h2 : m.bytesFrom (a + 3) < m.bytesFrom (a + 2) := Memory.bytesFrom_succ_lt (held 2 (by omega))
  have h3 : m.bytesFrom (a + 4) < m.bytesFrom (a + 3) := Memory.bytesFrom_succ_lt (held 3 (by omega))
  omega

/-- The bytes of the program text at the pc and above. -/
def State.bytesLeft (s : State) : Nat := s.mem.bytesFrom s.pc.toNat

/-! ### A run ends -/

/-- R27, R212, R216: by the default of `trap_entry`, the one way a step ends Running: it fetched a word, below the last
word of the address space, and advanced the pc. -/
theorem advances_of_step_running {s t : State} (htrap : s.params.trapEntry = .endRun) (hstep : step s = .next t)
    (hst : t.status = .running) :
    (∃ w, s.fetch = some w) ∧ s.pc ≠ Config.lastWord ∧ t.pc = s.pc + 4#32 := by
  rcases step_cases (running_of_step hstep) with ⟨-, h⟩ | ⟨w, e, -, -, h⟩ | ⟨w, i, hfetch, -, h⟩
  · cases h.symm.trans hstep
    cases hst
  · cases h.symm.trans hstep
    cases hst
  · rcases exec_next_cases (h.symm.trans hstep) with ⟨c, -, rfl⟩ | ⟨-, -, rfl⟩ | ⟨-, off, ws, -, -, rfl⟩
    · rw [takeException_endRun htrap] at hst
      cases hst
    · cases hst
    · exact ⟨⟨w, hfetch⟩, off, rfl⟩

/-- R26, R28: from a fetched word below the last one the pc advances without wrapping. -/
theorem toNat_pc_add_four {s : State} {w : Word} (hfetch : s.fetch = some w) (off : s.pc ≠ Config.lastWord) :
    (s.pc + 4#32).toNat = s.pc.toNat + 4 := by
  obtain ⟨aligned, -⟩ := Memory.fetchWord_eq_some hfetch
  have bound := s.pc.isLt
  have off' : s.pc.toNat ≠ 4294967292 := fun h => off (BitVec.eq_of_toNat_eq h)
  rw [BitVec.toNat_add]
  simp only [BitVec.toNat_ofNat]
  omega

/-- A step after which the run goes on uses up four bytes. -/
theorem bytesLeft_of_step_running {s t : State} (htrap : s.params.trapEntry = .endRun) (hstep : step s = .next t)
    (hst : t.status = .running) : t.bytesLeft + 4 ≤ s.bytesLeft := by
  obtain ⟨⟨w, hfetch⟩, off, hpc⟩ := advances_of_step_running htrap hstep hst
  obtain ⟨hmem, -⟩ := programTextNeverChanges s t hstep
  rw [State.bytesLeft, State.bytesLeft, hmem, hpc, toNat_pc_add_four hfetch off]
  exact Memory.bytesFrom_add_four hfetch

/-- A run that has ended stays as it is (R33). -/
theorem runFor_of_not_running {s : State} (ended : s.status ≠ .running) (k : Nat) : runFor k s = s := by
  cases k with
  | zero => rfl
  | succ k =>
    unfold runFor
    split
    · next t hstep => exact absurd (running_of_step hstep) ended
    · rfl
    · rfl

/-- R246: with fewer than `k` words left, a run has ended after `k` steps. -/
theorem runFor_not_running {k : Nat} {s : State} (htrap : s.params.trapEntry = .endRun) (few : s.bytesLeft < 4 * k) :
    (runFor k s).status ≠ .running := by
  induction k generalizing s with
  | zero => omega
  | succ k ih =>
    by_cases hrun : s.status = .running
    · obtain ⟨t, hstep⟩ := (onlyRunningStatesStep s).2 hrun
      obtain ⟨-, hparams⟩ := programTextNeverChanges s t hstep
      have next : runFor (k + 1) s = runFor k t := by rw [runFor, hstep]
      rw [next]
      by_cases goes_on : t.status = .running
      · have uses := bytesLeft_of_step_running htrap hstep goes_on
        exact ih (hparams ▸ htrap) (by omega)
      · rwa [runFor_of_not_running goes_on]
    · rwa [runFor_of_not_running hrun]

/-- Settles O57: the bytes left are at most all bytes of the program, fewer than four to each of the steps. -/
theorem everyRunEnds : Obligations.EveryRunEnds := by
  intro s htrap
  have all : s.bytesLeft ≤ s.mem.length := List.countP_le_length
  exact runFor_not_running htrap (by omega)

end Sys2Proof.Machine
end
